-- ==== Sys2Proof/Word.lean ====
section
/-! DEFINITION. The word types of the block (00_scope.md R9, R10) and nothing else. -/

namespace Sys2Proof

/-- A 64-bit word `u64`: a state word, a raw value, an operand field (R9, R10). -/
abbrev Word := BitVec 64

/-- A 32-bit value: the operands and results of the `NEXTINT` family, `LEN`, `CNT` (R9). -/
abbrev Half := BitVec 32

/-- A byte of a buffer (20_memory.md R40). -/
abbrev Byte := BitVec 8

/-- The 128 data bits `D` of a response (30_encoding.md R68). -/
abbrev Data := BitVec 128

/-- A command word `CMD` of 133 bits (30_encoding.md R60). -/
abbrev CmdWord := BitVec 133

end Sys2Proof
end

