-- ==== Sys2Proof/Machine/Operands.lean ====
section
/-! DEFINITION. The fields of a command word (30_encoding.md R60), how a command reads its operands from
them (R64), and how a result is placed in the data of a response (R70, 42_integer_filters.md R111). -/

namespace Sys2Proof.Machine

/-- `CMD[132:128]` (R60). -/
def opField (c : CmdWord) : BitVec 5 := c.extractLsb' 128 5

/-- `CMD[127:64]` (R60). -/
def aField (c : CmdWord) : Word := c.extractLsb' 64 64

/-- `CMD[63:0]` (R60). -/
def bField (c : CmdWord) : Word := c.extractLsb' 0 64

/-- `CMD = {OP, A, B}` (R60). -/
def packCmd (op : BitVec 5) (a b : Word) : CmdWord := op ++ a ++ b

/-- `v[31:0]`: a 32-bit operand or the low half of a raw value (R12, R64). -/
def lowHalf (v : Word) : Half := v.extractLsb' 0 32

/-- `A[4:0]`, the field `n - 1` of `NEXTBITS` (R64). -/
def lowFive (v : Word) : BitVec 5 := v.extractLsb' 0 5

/-- An operand of the `NEXTINT` family in its field, the unused upper bits zero (R65, R73). -/
def halfOperand (v : Half) : Word := v.setWidth 64

/-- The 5-bit operand of `NEXTBITS` in its field, the unused upper bits zero (R65, R73). -/
def fiveOperand (v : BitVec 5) : Word := v.setWidth 64

/-- `D[63:0] = v`, `D[127:64] = 0` (R70: `NEXTLONG`, `GETW0`, `NEXTDOUBLE` and the like). -/
def placeWord (v : Word) : Data := v.setWidth 128

/-- `D[63:0] = sext_64(v)`, `D[127:64] = 0` (R70, R111: the 32-bit signed results). -/
def placeSigned (v : Half) : Data := placeWord (v.signExtend 64)

/-- `D[31:0] = v`, all other bits 0 (R70: `NEXTFLOAT`). -/
def placeHalf (v : Half) : Data := v.setWidth 128

/-- `D[0] = v`, all other bits 0 (R70: `NEXTBOOL`). -/
def placeBool (v : Bool) : Data := (BitVec.ofBool v).setWidth 128

/-- `D[127:64] = S1`, `D[63:0] = S0` (R70: `COPY`). -/
def placePair (s0 s1 : Word) : Data := s1 ++ s0

end Sys2Proof.Machine
end

