-- ==== Sys2Proof/Syntax.lean ====
section
/-! DEFINITION. The 17 commands (30_encoding.md R62, R64), their classes (R63), and the assembler's
notation for them (R73, R74). -/

namespace Sys2Proof

/-- A command with exactly the operand bits it reads (R64); the bits it ignores (R65) are in no
constructor. One constructor per row of the opcode table. Every term is a command the encoding can
express, because each field has just the width the encoding gives it: `NEXTBITS` carries the 5-bit
field `n - 1`, so that an `n` outside 1 to 32 does not exist (93_implementation_defined.md U2). -/
inductive Instr where
  /-- `SEED1 s` (40_seeding.md R82). -/
  | seed1 (seed : Word)
  /-- `SEED2 a, b` (R83). -/
  | seed2 (a b : Word)
  /-- `SEEDE` (R85). -/
  | seedE
  /-- `GETW0` (44_bytes_and_state_access.md R146). -/
  | getW0
  /-- `GETW1` (R147). -/
  | getW1
  /-- `COPY` (R145). -/
  | copy
  /-- `NEXTLONG` (41_advance.md R103). -/
  | nextLong
  /-- `NEXTINT` (42_integer_filters.md R112). -/
  | nextInt
  /-- `NEXTBITS n`, the field holding `n - 1` (R113). -/
  | nextBits (nMinus1 : BitVec 5)
  /-- `NEXTBOOL` (R119). -/
  | nextBool
  /-- `NEXTINT.B bound` (R114). -/
  | nextIntB (bound : Half)
  /-- `NEXTINT.R lo, hi` (R116). -/
  | nextIntR (lo hi : Half)
  /-- `NEXTLONG.B bound` (R117). -/
  | nextLongB (bound : Word)
  /-- `NEXTLONG.R lo, hi` (R118). -/
  | nextLongR (lo hi : Word)
  /-- `NEXTDOUBLE` (43_float_filters.md R131). -/
  | nextDouble
  /-- `NEXTFLOAT` (R133). -/
  | nextFloat
  /-- `NEXTBYTES LEN` (44_bytes_and_state_access.md R141). -/
  | nextBytes (len : Half)
  deriving DecidableEq, Repr

/-- The class of an opcode (30_encoding.md R63). -/
inductive CmdClass where
  | seed
  | draw
  | read
  | reserved
  deriving DecidableEq, Repr

/-- A command as test programs write it, with integers for operands (R73). For `NEXTBITS` the operand
written is `n` itself. -/
inductive AsmOp where
  | seed1 (s : Int)
  | seed2 (a b : Int)
  | seedE
  | getW0
  | getW1
  | copy
  | nextLong
  | nextInt
  | nextBits (n : Int)
  | nextBool
  | nextIntB (bound : Int)
  | nextIntR (lo hi : Int)
  | nextLongB (bound : Int)
  | nextLongR (lo hi : Int)
  | nextDouble
  | nextFloat
  | nextBytes (len : Int)
  deriving DecidableEq, Repr

/-- A line of a test program: a command on a port (`p<port>: MNEMONIC ...`, R73) or one of the
pseudo-commands that concern one block (R74). `CLONE` concerns two blocks and is in
`Machine/Instances.lean`. -/
inductive AsmLine where
  | command (port : Nat) (op : AsmOp)
  /-- `RESET`: not a command; the environment asserts `rst`. -/
  | reset
  /-- `STATE pp`: expands to `pp: COPY`. -/
  | readState (port : Nat)
  deriving DecidableEq, Repr

end Sys2Proof
end

