-- ==== Sys2Proof/Decode.lean ====
section
/-! DEFINITION. The opcode map (30_encoding.md R62), the decoder, total on every command word, and the
encoder written from the same map. -/

namespace Sys2Proof

open Sys2Proof.Machine

/-- Why a command word is no command: its opcode is reserved (R66), which is the only reason there is. -/
inductive DecodeError where
  | reservedOpcode (op : BitVec 5)
  deriving DecidableEq, Repr

/-- The class of an opcode (R62, R63); every opcode of no command is reserved (R66). -/
def classOf (op : BitVec 5) : CmdClass :=
  if op = 0x01 ∨ op = 0x02 ∨ op = 0x03 then .seed
  else if op = 0x04 ∨ op = 0x05 ∨ op = 0x06 then .read
  else if 0x08 ≤ op ∧ op ≤ 0x12 then .draw
  else .reserved

/-- The command that an opcode and the two operand fields name (R62, R64). The operand bits a command
does not read are dropped here, whatever they hold (R65). -/
def decodeFields (op : BitVec 5) (a b : Word) : Except DecodeError Instr :=
  if op = 0x01 then .ok (.seed1 a)
  else if op = 0x02 then .ok (.seed2 a b)
  else if op = 0x03 then .ok .seedE
  else if op = 0x04 then .ok .getW0
  else if op = 0x05 then .ok .getW1
  else if op = 0x06 then .ok .copy
  else if op = 0x08 then .ok .nextLong
  else if op = 0x09 then .ok .nextInt
  else if op = 0x0A then .ok (.nextBits (lowFive a))
  else if op = 0x0B then .ok .nextBool
  else if op = 0x0C then .ok (.nextIntB (lowHalf a))
  else if op = 0x0D then .ok (.nextIntR (lowHalf a) (lowHalf b))
  else if op = 0x0E then .ok (.nextLongB a)
  else if op = 0x0F then .ok (.nextLongR a b)
  else if op = 0x10 then .ok .nextDouble
  else if op = 0x11 then .ok .nextFloat
  else if op = 0x12 then .ok (.nextBytes (lowHalf a))
  else .error (.reservedOpcode op)

/-- The decoder: "a decoder needs only `OP`" to know the command (R67). -/
def decode (c : CmdWord) : Except DecodeError Instr :=
  decodeFields (opField c) (aField c) (bField c)

/-- The opcode of a command (R62). -/
def Instr.opcode : Instr → BitVec 5
  | .seed1 _ => 0x01
  | .seed2 _ _ => 0x02
  | .seedE => 0x03
  | .getW0 => 0x04
  | .getW1 => 0x05
  | .copy => 0x06
  | .nextLong => 0x08
  | .nextInt => 0x09
  | .nextBits _ => 0x0A
  | .nextBool => 0x0B
  | .nextIntB _ => 0x0C
  | .nextIntR _ _ => 0x0D
  | .nextLongB _ => 0x0E
  | .nextLongR _ _ => 0x0F
  | .nextDouble => 0x10
  | .nextFloat => 0x11
  | .nextBytes _ => 0x12

/-- The class of a command (R63). -/
def Instr.cmdClass (i : Instr) : CmdClass := classOf i.opcode

/-- Operand field `A` as an assembler writes it: the bits the command reads, zero elsewhere (R64, R65). -/
def Instr.operandA : Instr → Word
  | .seed1 s => s
  | .seed2 a _ => a
  | .seedE => 0
  | .getW0 => 0
  | .getW1 => 0
  | .copy => 0
  | .nextLong => 0
  | .nextInt => 0
  | .nextBits n => fiveOperand n
  | .nextBool => 0
  | .nextIntB bound => halfOperand bound
  | .nextIntR lo _ => halfOperand lo
  | .nextLongB bound => bound
  | .nextLongR lo _ => lo
  | .nextDouble => 0
  | .nextFloat => 0
  | .nextBytes len => halfOperand len

/-- Operand field `B` as an assembler writes it (R64, R65). -/
def Instr.operandB : Instr → Word
  | .seed1 _ => 0
  | .seed2 _ b => b
  | .seedE => 0
  | .getW0 => 0
  | .getW1 => 0
  | .copy => 0
  | .nextLong => 0
  | .nextInt => 0
  | .nextBits _ => 0
  | .nextBool => 0
  | .nextIntB _ => 0
  | .nextIntR _ hi => halfOperand hi
  | .nextLongB _ => 0
  | .nextLongR _ hi => hi
  | .nextDouble => 0
  | .nextFloat => 0
  | .nextBytes _ => 0

/-- The command word of a command (R60, R62). -/
def encode (i : Instr) : CmdWord := packCmd i.opcode i.operandA i.operandB

/-- The command word among the table's bits: bit 0 is `CMD[0]`; the word has 133 bits, so the bits that
fill its row up to whole bytes lie on no wire of `cmd[p]` and are dropped (log 10). -/
def tableCmd (nbits w : Nat) : CmdWord := BitVec.ofNat 133 (w % 2 ^ nbits)

/-- What the decoder reads from a row of the opcode table. -/
def decodeTableWord (nbits w : Nat) : Option Instr :=
  match decode (tableCmd nbits w) with
  | .ok i => some i
  | .error _ => none

end Sys2Proof
end

