-- ==== Sys2Proof/Config.lean ====
section
/-! DEFINITION. What an implementation fixes. -/

namespace Sys2Proof

/-- `NPORTS` of the block that `State.reset` describes (00_scope.md R9: "open, integer at least 1").
DESIGN CHOICE (log 3): 2, the number of ports of the spec's handshake traces. Nothing else in the
model uses it: how many ports a State has is the length of `State.ports`, and every statement is about
any such length, so none depends on this number. -/
def Config.nports : Nat := 2

end Sys2Proof
end

