-- ==== Sys2Proof/Machine/State.lean ====
section
/-! DEFINITION. The state of one block, as plain data, and its state after reset (10_state.md). -/

namespace Sys2Proof.Machine

/-- A StateSnapshot (00_scope.md R19): the two state words `S0`, `S1` (10_state.md R20) at one step. -/
structure Snapshot where
  s0 : Word
  s1 : Word
  deriving DecidableEq, Repr

/-- The five phases of a port (10_state.md R28). -/
inductive Phase where
  | idle
  | fetch
  | held
  | read
  | done
  deriving DecidableEq, Repr

/-- The four statuses of a response (30_encoding.md R69). -/
inductive Status where
  | ok
  | illegalOp
  | unseeded
  | alreadySeeded
  deriving DecidableEq, Repr

/-- The context registers of a port (10_state.md R27). -/
structure Context where
  /-- `PH[p]`, the phase. -/
  ph : Phase
  /-- `OP[p]`, the opcode of the command in flight. -/
  op : BitVec 5
  /-- `A[p]`, its operand A. -/
  a : Word
  /-- `B[p]`, its operand B. -/
  b : Word
  /-- `T0[p]`, the snapshot of `S0`. -/
  t0 : Word
  /-- `T1[p]`, the snapshot of `S1`. -/
  t1 : Word
  /-- `CNT[p]`, the buffer bytes not yet written. -/
  cnt : BitVec 32
  /-- `RES[p]`, the response data. -/
  res : Data
  /-- `ST[p]`, the response status. -/
  st : Status
  deriving DecidableEq, Repr

/-- The context of a port in `IDLE`. The spec gives the other registers no value there (R28, R33,
R102, R180: "hold no value"). DESIGN CHOICE, unsafe (log 4): the model writes that as zero, and `OK` for
the status, always, so that two machines the spec does not tell apart are equal data. -/
def Context.idle : Context :=
  { ph := .idle, op := 0, a := 0, b := 0, t0 := 0, t1 := 0, cnt := 0, res := 0, st := .ok }

/-- A response as the requester receives it: `RSP = {ST, D}` (30_encoding.md R68). -/
structure Response where
  st : Status
  data : Data
  deriving DecidableEq, Repr

/-- A byte buffer `BUF[p]` (20_memory.md R40): the bytes written to it, by index, in rising order of the
index. An index that is not listed was never written; what the requester's memory holds there the block
never reads and the model does not know. DESIGN CHOICE, safe (log 5). -/
abbrev Memory := List Host.Cell

/-- One port: the block's context registers, and beside them what belongs to its requester. -/
structure Port where
  /-- The context registers (R27). -/
  ctx : Context
  /-- `BUF[p]` (R32, R40): the requester's buffer, which reset does not touch. -/
  buf : Memory
  /-- The command words the requester presents, next first (30_encoding.md R71 `cmd_valid`, `cmd`); a turn
  `Turn.present` adds one. -/
  pending : List CmdWord
  /-- The responses the requester has taken, oldest first (41_advance.md R102). The model's own record
  of the port's output. DESIGN CHOICE, safe (log 7). -/
  received : List Response
  deriving DecidableEq, Repr

/-- Whose turn it is (00_scope.md R17): what the schedule, an argument of an execution (10_state.md
R34), says about one step. -/
inductive Turn where
  /-- The requester of a port: ACCEPT in `IDLE` if it presents a command, RESPOND in `DONE`. -/
  | requester (port : Nat)
  /-- The sequencer of a port: SNAPSHOT in `FETCH`, COMMIT in `HELD`, READ in `READ`. -/
  | sequencer (port : Nat)
  /-- The environment asserts `rst` (70_reset_and_hazards.md R180). -/
  | reset
  /-- The environment drives the entropy input to a value (30_encoding.md R72, R194). -/
  | drive (ent : Word)
  /-- A requester stores a byte into its own buffer (20_memory.md R40, 70_reset_and_hazards.md R189; log
  12). -/
  | store (port : Nat) (index : BitVec 32) (byte : Byte)
  /-- A requester presents one more command, after those it presents already; no execution bounds how many
  (30_encoding.md R71, 70_reset_and_hazards.md R188, R194; log 1). -/
  | present (port : Nat) (cmd : CmdWord)
  deriving DecidableEq, Repr

/-- One block and the inputs of its execution. -/
structure State where
  /-- `(S0, S1)`, and `SEEDED` with them: the words hold a value exactly while `SEEDED = 1`
  (10_state.md R24, R25), so the flag is whether there is a value. DEDUCED, safe (log 2). `none` is the spec's own
  "hold no value", which no rule reads, and no missing reset value: R25, "A model must not give `S0` and
  `S1` a value (zero or any other) before the first seed command". -/
  words : Option Snapshot
  /-- The ports `0 .. NPORTS-1`: `NPORTS` is the length (00_scope.md R9). -/
  ports : List Port
  /-- The entropy input `ent` (30_encoding.md R72): an input wire, any value. Its value at reset: DESIGN
  CHOICE, unsafe (log 6). -/
  ent : Word
  /-- The port the step in progress is for. The model's own: DESIGN CHOICE, safe (log 1). -/
  active : Nat
  /-- The turns to come, next first (10_state.md R34: the schedule). An input. DESIGN CHOICE, safe
  (log 1). -/
  schedule : List Turn
  deriving DecidableEq, Repr

/-- Why a step could stop. The block itself "raises no exception, takes no trap and has no fault state"
(60_exceptions.md R160): each constructor is a combination of state that no run reaches, and the
invariant `State.Inv` rules all of them out. DESIGN CHOICE, safe (log 8). -/
inductive Fault where
  /-- Raised by a meaning when `active` names no port; `step` never calls one so. Safe. -/
  | noSuchPort
  /-- Raised by a meaning in a phase its class never enters (a seed command in `FETCH`, R95). Safe. -/
  | wrongPhase
  /-- Raised by SNAPSHOT, COMMIT and READ when the state words hold no value, which R97 and R144 say
  cannot be while a port is in `FETCH`, `HELD` or `READ`. Safe. -/
  | noStateWords
  /-- Raised by `step` when a port is in `FETCH`, `HELD` or `READ` with a reserved opcode latched, which
  ACCEPT never leaves (R96). Safe. -/
  | noCommand
  deriving DecidableEq, Repr

/-- Why the model could have no meaning for a command. -/
inductive Refusal where
  /-- Raised by `exec` for a command the model gives no meaning: none (every command has one). Safe. -/
  | notModelled (mnemonic : String)
  deriving DecidableEq, Repr

/-- A port after reset (10_state.md R33): `IDLE`. Its requester has nothing presented, nothing taken,
and no byte of its buffer known. -/
def Port.reset : Port := { ctx := Context.idle, buf := [], pending := [], received := [] }

/-- A block of `n` ports after reset (10_state.md R33): `SEEDED = 0`, the words hold no value, every port
is `IDLE`. The inputs are quiet: nothing is presented and no turn is given ("nothing runs until a
requester presents a command", 70_reset_and_hazards.md R180); the wire `ent` stands at 0: DESIGN CHOICE,
unsafe (log 6). -/
def State.resetWith (n : Nat) : State :=
  { words := none, ports := List.replicate n Port.reset, ent := 0, active := 0, schedule := [] }

/-- The machine right after reset. -/
def State.reset : State := State.resetWith Config.nports

end Sys2Proof.Machine
end

