-- ==== Sys2Proof/Machine/Flags.lean ====
section
/-! DEFINITION. The one flag, `SEEDED` (10_state.md R24, R26), the status codes (30_encoding.md R69) and
the one decision that reads the flag (60_exceptions.md R166). -/

namespace Sys2Proof.Machine

/-- `SEEDED`: 1 exactly while the state words hold a value (R24, R25; log 2). -/
def State.seeded (s : State) : Bool := s.words.isSome

/-- The 2-bit code of a status (R69). -/
def Status.code : Status → BitVec 2
  | .ok => 0
  | .illegalOp => 1
  | .unseeded => 2
  | .alreadySeeded => 3

/-- The status of a command, decided in its ACCEPT step in the order of R166. -/
def admission (c : CmdClass) (seeded : Bool) : Status :=
  match c with
  | .reserved => .illegalOp
  | .seed => if seeded then .alreadySeeded else .ok
  | .draw => if seeded then .ok else .unseeded
  | .read => if seeded then .ok else .unseeded

end Sys2Proof.Machine
end

