-- ==== Sys2Proof/Machine/Memory.lean ====
section
/-! DEFINITION. The byte buffer `BUF[p]` (20_memory.md R40): one byte read or written at an index. -/

namespace Sys2Proof.Machine

/-- The byte last written at an index; `none` where none was (log 5). -/
def Memory.read : Memory → Nat → Option Byte
  | [], _ => none
  | (k, v) :: m, i => if i = k then some v else Memory.read m i

/-- `MemWrite(BUF + i, 1, v)` (00_scope.md R16). -/
def Memory.write : Memory → Nat → Byte → Memory
  | [], i, v => [(i, v)]
  | (k, w) :: m, i, v =>
    if i < k then (i, v) :: (k, w) :: m
    else if i = k then (i, v) :: m
    else (k, w) :: Memory.write m i v

/-- The writes of a list, one after the other (R46). -/
def Memory.writeAll (m : Memory) : List Host.Cell → Memory
  | [] => m
  | (i, v) :: ws => Memory.writeAll (Memory.write m i v) ws

/-- The canonical form: indices strictly rising and all of 32 bits. An index that is not listed reads as
no value, so there is no byte that would have to be left out. -/
abbrev Memory.wf (m : Memory) : Prop :=
  m.Pairwise (fun c d => c.1 < d.1) ∧ ∀ c ∈ m, c.1 < 2 ^ 32

end Sys2Proof.Machine
end

