-- ==== Sys2Proof/Machine/Mix.lean ====
section
/-! DEFINITION. The mixing functions: the SplitMix64 output function and the seed expansion
(40_seeding.md R81, R82), the output and next-state functions of the generator (41_advance.md R91), and
the inverse of the latter (10_state.md R36). -/

namespace Sys2Proof.Machine

/-- `rotl_64(v, k)` for `0 < k < 64` (00_scope.md R14). -/
def rotl (v : Word) (k : Nat) : Word := (v <<< k) ||| (v >>> (64 - k))

/-- `z ^ lsr_64(z, k)` (R81). -/
def xorShift (z : Word) (k : Nat) : Word := z ^^^ (z >>> k)

/-- The SplitMix64 output function (R81). -/
def mix64 (z : Word) : Word :=
  xorShift (xorShift (xorShift z 30 * 0xBF58476D1CE4E5B9) 27 * 0x94D049BB133111EB) 31

/-- The constant `GAMMA` (R82). -/
def gamma : Word := 0x9E3779B97F4A7C15

/-- The pair `SEED1` computes for a seed (R82): the accumulator is advanced before each mix, and both
words zero would be replaced by `(1, 0)`, which never happens (R84). -/
def seed1Words (seed : Word) : Snapshot :=
  let acc0 := seed + gamma
  let w0 := mix64 acc0
  let acc1 := acc0 + gamma
  let w1 := mix64 acc1
  if w0 = 0 ∧ w1 = 0 then ⟨1, w1⟩ else ⟨w0, w1⟩

/-- The pair `SEED2` stores (R83). -/
def seed2Words (a b : Word) : Snapshot :=
  if a = 0 ∧ b = 0 then ⟨1, 0⟩ else ⟨a, b⟩

/-- The output function `raw` (R91). -/
def raw (g : Snapshot) : Word := g.s0 + g.s1

/-- The next-state function `next` (R91). -/
def next (g : Snapshot) : Snapshot :=
  let s1 := g.s1 ^^^ g.s0
  { s0 := rotl g.s0 55 ^^^ s1 ^^^ (s1 <<< 14), s1 := rotl s1 36 }

/-- The function that undoes `next` (10_state.md R36). -/
def unNext (g : Snapshot) : Snapshot :=
  let s1 := rotl g.s1 28
  let a := rotl (g.s0 ^^^ s1 ^^^ (s1 <<< 14)) 9
  { s0 := a, s1 := s1 ^^^ a }

/-- The state `k` positions after `g` in the sequence (20_memory.md R50). -/
def nextN : Nat → Snapshot → Snapshot
  | 0, g => g
  | k + 1, g => nextN k (next g)

end Sys2Proof.Machine
end

