-- ==== Sys2Proof/Machine/Ops.lean ====
section
/-! DEFINITION. The steps of the port sequencer (41_advance.md R95): ACCEPT, SNAPSHOT, COMMIT, READ and
RESPOND, once each, over the port whose step it is; and the three shapes of a command (seed class, read
class, draw class) made of them. A refused command is answered here (60_exceptions.md R161): the block
has no exception entry and no return from one (R167, R168), and this answer is what stands in for both. -/

namespace Sys2Proof.Machine

/-- The port the step is for. -/
def State.port? (s : State) : Option Port := s.ports[s.active]?

/-- The state with that port replaced. -/
def State.putPort (s : State) (q : Port) : State := { s with ports := s.ports.set s.active q }

/-- The write of both state words in one step, with `SEEDED <- 1` (10_state.md R22, R24). -/
def State.putWords (s : State) (g : Snapshot) : State := { s with words := some g }

/-- The port with its context registers replaced. -/
def Port.putCtx (q : Port) (c : Context) : Port := { q with ctx := c }

/-- `PH[p] <- ph`. -/
def Port.setPhase (q : Port) (ph : Phase) : Port := q.putCtx { q.ctx with ph := ph }

/-- The first line of ACCEPT (41_advance.md R96): all 133 bits are latched, also those the command
ignores. -/
def Port.latch (q : Port) (c : CmdWord) : Port :=
  q.putCtx { q.ctx with op := opField c, a := aField c, b := bField c }

/-- The command word in flight, `{OP[p], A[p], B[p]}`. -/
def Context.cmd (c : Context) : CmdWord := packCmd c.op c.a c.b

/-- `respond(p, st, d)` (00_scope.md R16): `ST[p] <- st; RES[p] <- d; PH[p] <- DONE`. -/
def Port.respond (q : Port) (st : Status) (d : Data) : Port :=
  q.putCtx { q.ctx with st := st, res := d, ph := .done }

/-- `CNT[p] <- n`. -/
def Port.setCount (q : Port) (n : BitVec 32) : Port := q.putCtx { q.ctx with cnt := n }

/-- `(T0[p], T1[p]) <- (x[0], x[1]); PH[p] <- HELD` (R97). -/
def Port.holdSnapshot (q : Port) (g : Snapshot) : Port :=
  q.putCtx { q.ctx with t0 := g.s0, t1 := g.s1, ph := .held }

/-- The snapshot a port holds. -/
def Context.snapshot (c : Context) : Snapshot := ⟨c.t0, c.t1⟩

/-- RESPOND (R102): the requester receives `{ST[p], RES[p]}`, the port is `IDLE` again and its context
registers hold no value. -/
def Port.handOver (q : Port) : Port :=
  { q with ctx := Context.idle, received := q.received ++ [⟨q.ctx.st, q.ctx.res⟩] }

/-- ACCEPT after the latch (R96): the status is decided (60_exceptions.md R166); a refused command is
answered with data 0 and does nothing else (R161), an admitted one goes on as `onAdmitted` says. -/
def accept (c : CmdClass) (onAdmitted : Port → State → State) (q : Port) (s : State) :
    Host.Outcome State Fault Refusal :=
  match admission c s.seeded with
  | .ok => .next (onAdmitted q s)
  | st => .next (s.putPort (q.respond st 0))

/-- RESPOND of the port `q` (R102). -/
def respondStep (q : Port) (s : State) : Host.Outcome State Fault Refusal :=
  .next (s.putPort q.handOver)

/-- SNAPSHOT (R97): both words in one indivisible read. -/
def snapshotStep (q : Port) (s : State) : Host.Outcome State Fault Refusal :=
  match s.words with
  | none => .fault .noStateWords
  | some g => .next (s.putPort (q.holdSnapshot g))

/-- COMMIT (R98): if all 128 bits of the state equal the snapshot (R99), the state advances and `finish`
takes the raw value; if not, the port goes back to `FETCH` and nothing else changes. -/
def commitStep (finish : Word → Port → Port) (q : Port) (s : State) :
    Host.Outcome State Fault Refusal :=
  match s.words with
  | none => .fault .noStateWords
  | some g =>
    if g = q.ctx.snapshot then
      .next ((s.putPort (finish (raw q.ctx.snapshot) q)).putWords (next q.ctx.snapshot))
    else .next (s.putPort (q.setPhase .fetch))

/-- READ (44_bytes_and_state_access.md R144). -/
def readStep (data : Snapshot → Data) (q : Port) (s : State) : Host.Outcome State Fault Refusal :=
  match s.words with
  | none => .fault .noStateWords
  | some g => .next (s.putPort (q.respond .ok (data g)))

/-- A seed-class command (40_seeding.md R80): carried out entirely in ACCEPT. -/
def seedCommand (pair : Snapshot) (s : State) : Host.Outcome State Fault Refusal :=
  match s.port? with
  | none => .fault .noSuchPort
  | some q =>
    match q.ctx.ph with
    | .idle => accept .seed (fun q s => (s.putPort (q.respond .ok 0)).putWords pair) q s
    | .done => respondStep q s
    | .fetch => .fault .wrongPhase
    | .held => .fault .wrongPhase
    | .read => .fault .wrongPhase

/-- A read-class command (R96, R144). -/
def readCommand (data : Snapshot → Data) (s : State) : Host.Outcome State Fault Refusal :=
  match s.port? with
  | none => .fault .noSuchPort
  | some q =>
    match q.ctx.ph with
    | .idle => accept .read (fun q s => s.putPort (q.setPhase .read)) q s
    | .read => readStep data q s
    | .done => respondStep q s
    | .fetch => .fault .wrongPhase
    | .held => .fault .wrongPhase

/-- A draw-class command (R96 to R98): `start` is what ACCEPT does to the port once the command is
admitted, `finish` what a successful COMMIT does to it with the raw value. -/
def drawCommand (start : Port → Port) (finish : Word → Port → Port) (s : State) :
    Host.Outcome State Fault Refusal :=
  match s.port? with
  | none => .fault .noSuchPort
  | some q =>
    match q.ctx.ph with
    | .idle => accept .draw (fun q s => s.putPort (start q)) q s
    | .fetch => snapshotStep q s
    | .held => commitStep finish q s
    | .done => respondStep q s
    | .read => .fault .wrongPhase

/-- A draw-class command that makes one draw: its result is a pure function of the raw value (R104),
placed in the response data (30_encoding.md R70). -/
def drawOne (result : Word → Data) (s : State) : Host.Outcome State Fault Refusal :=
  drawCommand (fun q => q.setPhase .fetch) (fun r q => q.respond .ok (result r)) s

/-- A command whose opcode is reserved (60_exceptions.md R162), accepted whatever `SEEDED` is. -/
def refuseReserved (q : Port) (s : State) : Host.Outcome State Fault Refusal :=
  accept .reserved (fun _ s => s) q s

end Sys2Proof.Machine
end

