-- ==== Sys2Proof/Machine/Bytes.lean ====
section
/-! DEFINITION. `NEXTBYTES` (44_bytes_and_state_access.md R141): the one command of several draws and the
only one that stores. -/

namespace Sys2Proof.Machine

/-- How many bytes one draw fills (R141). -/
def drawBytes (cnt : Nat) : Nat := min cnt 8

/-- `r[8j+7 : 8j]`. -/
def byteOf (r : Word) (j : Nat) : Byte := r.extractLsb' (8 * j) 8

/-- The byte writes of one draw, in their order: the low byte of `r` to the highest index not yet
written (R141, 20_memory.md R41). On the wires: `buf_idx` and `buf_data` while `buf_we = 1` (30_encoding.md
R71). -/
def byteWrites (cnt : Nat) (r : Word) : List Host.Cell :=
  (List.range (drawBytes cnt)).map fun j => (cnt - 1 - j, byteOf r j)

/-- What a successful COMMIT of `NEXTBYTES` does to its port (R141). -/
def fillBytes (r : Word) (q : Port) : Port :=
  let left := q.ctx.cnt - BitVec.ofNat 32 (drawBytes q.ctx.cnt.toNat)
  let filled :=
    ({ q with buf := q.buf.writeAll (byteWrites q.ctx.cnt.toNat r) } : Port).setCount left
  if left = 0 then filled.respond .ok 0 else filled.setPhase .fetch

/-- What ACCEPT of an admitted `NEXTBYTES` does to its port (41_advance.md R96): nothing to fill is
answered at once, with no draw. -/
def startBytes (len : Half) (q : Port) : Port :=
  if len = 0 then (q.setCount len).respond .ok 0 else (q.setCount len).setPhase .fetch

/-- Byte `i` of the buffer is one that the `NEXTBYTES` of this context has written already: an index from
`CNT` up to `LEN`, from its ACCEPT until its response is taken (R141; 70_reset_and_hazards.md R189). Of a
refused `NEXTBYTES` there is none. -/
def Context.written (c : Context) (i : Nat) : Bool :=
  c.op == 0x12 && decide (c.cnt.toNat ≤ i) && decide (i < (lowHalf c.a).toNat) &&
    match c.ph with
    | .fetch => true
    | .held => true
    | .done => c.st == .ok
    | .idle => false
    | .read => false

/-- `NEXTBYTES LEN` (R141). -/
def execNextBytes (len : Half) (s : State) : Host.Outcome State Fault Refusal :=
  drawCommand (startBytes len) fillBytes s

end Sys2Proof.Machine
end

