-- ==== Sys2Proof/Machine/FloatFilters.lean ====
section
/-! DEFINITION. The floating-point draws `NEXTDOUBLE` and `NEXTFLOAT` (43_float_filters.md). Every result
is exact (R132), so there is no rounding. -/

namespace Sys2Proof.Machine

/-- The position of the most significant 1 bit of `m` among the bits `k .. 0`; 0 if there is none. -/
def leadingOne : Nat → Nat → Nat
  | 0, _ => 0
  | k + 1, m => if m.testBit (k + 1) then k + 1 else leadingOne k m

/-- The binary64 pattern of `m / 2^53` for `m < 2^53` (R131). -/
def doublePattern (m : Nat) : Word :=
  if m = 0 then 0
  else
    let k := leadingOne 52 m
    (0 : BitVec 1) ++ BitVec.ofNat 11 (970 + k) ++ BitVec.ofNat 52 (m * 2 ^ (52 - k))

/-- The binary32 pattern of `m / 2^24` for `m < 2^24` (R133). -/
def floatPattern (m : Nat) : Half :=
  if m = 0 then 0
  else
    let k := leadingOne 23 m
    (0 : BitVec 1) ++ BitVec.ofNat 8 (103 + k) ++ BitVec.ofNat 23 (m * 2 ^ (23 - k))

/-- The `NEXTDOUBLE` result, from `r[52:0]` (R131). -/
def filterDouble (r : Word) : Word := doublePattern (r.extractLsb' 0 53).toNat

/-- The `NEXTFLOAT` result, from `r[23:0]` (R133). -/
def filterFloat (r : Word) : Half := floatPattern (r.extractLsb' 0 24).toNat

/-- `NEXTDOUBLE` (R131). -/
def execNextDouble (s : State) : Host.Outcome State Fault Refusal :=
  drawOne (fun r => placeWord (filterDouble r)) s

/-- `NEXTFLOAT` (R133). -/
def execNextFloat (s : State) : Host.Outcome State Fault Refusal :=
  drawOne (fun r => placeHalf (filterFloat r)) s

end Sys2Proof.Machine
end

