-- ==== Sys2Proof/Machine/IntegerFilters.lean ====
section
/-! DEFINITION. The raw, integer, bit-field and boolean draws: `NEXTLONG` (41_advance.md R103) and the
seven commands of 42_integer_filters.md. Products are taken over the integers and narrowed at the end
(00_scope.md R13); `Int` division by a positive number rounds toward minus infinity, which is the
arithmetic shift of R14. -/

namespace Sys2Proof.Machine

/-- `h = lsr_64(r, 33)`, that is `r[63:33]` (R114). -/
def topBits (r : Word) : Nat := (r >>> 33).toNat

/-- `r[31:0]` (R112). -/
def filterInt (r : Word) : Half := lowHalf r

/-- `lsr_32(r[31:0], 32 - n)` with `n = nMinus1 + 1` (R113). -/
def filterBits (nMinus1 : BitVec 5) (r : Word) : Half := lowHalf r >>> (32 - (nMinus1.toNat + 1))

/-- `r[63]` (R119). -/
def filterBool (r : Word) : Bool := r.msb

/-- `trunc_32(floor(signed(bound) * h / 2^31))` (R114). -/
def filterIntB (bound : Half) (r : Word) : Half :=
  BitVec.ofInt 32 (bound.toInt * (topBits r : Int) / 2 ^ 31)

/-- `lo +_32` the `NEXTINT.B` result for the bound `hi -_32 lo` (R116). -/
def filterIntR (lo hi : Half) (r : Word) : Half := lo + filterIntB (hi - lo) r

/-- `floor(unsigned(r) * signed(bound) / 2^64)` as a 64-bit word (R117). For a negative bound this is the
formula the spec decided (92_eei_decisions.md D17): DEDUCED, unsafe (log 9). -/
def filterLongB (bound : Word) (r : Word) : Word :=
  BitVec.ofInt 64 ((r.toNat : Int) * bound.toInt / 2 ^ 64)

/-- `lo +_64` the `NEXTLONG.B` result for the bound `hi -_64 lo` (R118). -/
def filterLongR (lo hi : Word) (r : Word) : Word := lo + filterLongB (hi - lo) r

/-- `NEXTLONG` (R103). -/
def execNextLong (s : State) : Host.Outcome State Fault Refusal :=
  drawOne (fun r => placeWord r) s

/-- `NEXTINT` (R112). -/
def execNextInt (s : State) : Host.Outcome State Fault Refusal :=
  drawOne (fun r => placeSigned (filterInt r)) s

/-- `NEXTBITS n` (R113). -/
def execNextBits (nMinus1 : BitVec 5) (s : State) : Host.Outcome State Fault Refusal :=
  drawOne (fun r => placeSigned (filterBits nMinus1 r)) s

/-- `NEXTBOOL` (R119). -/
def execNextBool (s : State) : Host.Outcome State Fault Refusal :=
  drawOne (fun r => placeBool (filterBool r)) s

/-- `NEXTINT.B bound` (R114). -/
def execNextIntB (bound : Half) (s : State) : Host.Outcome State Fault Refusal :=
  drawOne (fun r => placeSigned (filterIntB bound r)) s

/-- `NEXTINT.R lo, hi` (R116). -/
def execNextIntR (lo hi : Half) (s : State) : Host.Outcome State Fault Refusal :=
  drawOne (fun r => placeSigned (filterIntR lo hi r)) s

/-- `NEXTLONG.B bound` (R117). -/
def execNextLongB (bound : Word) (s : State) : Host.Outcome State Fault Refusal :=
  drawOne (fun r => placeWord (filterLongB bound r)) s

/-- `NEXTLONG.R lo, hi` (R118). -/
def execNextLongR (lo hi : Word) (s : State) : Host.Outcome State Fault Refusal :=
  drawOne (fun r => placeWord (filterLongR lo hi r)) s

end Sys2Proof.Machine
end

