-- ==== Sys2Proof/Machine/Seeding.lean ====
section
/-! DEFINITION. The seed class: `SEED1`, `SEED2`, `SEEDE` (40_seeding.md). -/

namespace Sys2Proof.Machine

/-- `SEED1 s` (R82). -/
def execSeed1 (seed : Word) (s : State) : Host.Outcome State Fault Refusal :=
  seedCommand (seed1Words seed) s

/-- `SEED2 a, b` (R83). -/
def execSeed2 (a b : Word) (s : State) : Host.Outcome State Fault Refusal :=
  seedCommand (seed2Words a b) s

/-- `SEEDE` (R85): the entropy input as it stands at ACCEPT, expanded as `SEED1` does. A refused `SEEDE`
makes no use of it (R164). -/
def execSeedE (s : State) : Host.Outcome State Fault Refusal :=
  seedCommand (seed1Words s.ent) s

end Sys2Proof.Machine
end

