-- ==== Sys2Proof/Machine/StateAccess.lean ====
section
/-! DEFINITION. The read class: `GETW0`, `GETW1`, `COPY` (44_bytes_and_state_access.md R144 to R147). -/

namespace Sys2Proof.Machine

/-- `GETW0` (R146): `D = zext_128(x[0])`. -/
def execGetW0 (s : State) : Host.Outcome State Fault Refusal :=
  readCommand (fun g => placeWord g.s0) s

/-- `GETW1` (R147): `D = zext_128(x[1])`. -/
def execGetW1 (s : State) : Host.Outcome State Fault Refusal :=
  readCommand (fun g => placeWord g.s1) s

/-- `COPY` (R145): both words in one indivisible read. -/
def execCopy (s : State) : Host.Outcome State Fault Refusal :=
  readCommand (fun g => placePair g.s0 g.s1) s

end Sys2Proof.Machine
end

