-- ==== Sys2Proof/Machine/Dispatch.lean ====
section
/-! DEFINITION. `exec i s`: the step that command `i`, in flight on the port `s.active`, takes next. The
phase of the port says which of the five steps of 41_advance.md R95 it is: ACCEPT in `IDLE` (the word
already latched), SNAPSHOT in `FETCH`, COMMIT in `HELD`, READ in `READ`, RESPOND in `DONE`. -/

namespace Sys2Proof.Machine

def exec (i : Instr) (s : State) : Host.Outcome State Fault Refusal :=
  match i with
  | .seed1 seed => Sys2Proof.Machine.execSeed1 seed s
  | .seed2 a b => Sys2Proof.Machine.execSeed2 a b s
  | .seedE => Sys2Proof.Machine.execSeedE s
  | .getW0 => Sys2Proof.Machine.execGetW0 s
  | .getW1 => Sys2Proof.Machine.execGetW1 s
  | .copy => Sys2Proof.Machine.execCopy s
  | .nextLong => Sys2Proof.Machine.execNextLong s
  | .nextInt => Sys2Proof.Machine.execNextInt s
  | .nextBits nMinus1 => Sys2Proof.Machine.execNextBits nMinus1 s
  | .nextBool => Sys2Proof.Machine.execNextBool s
  | .nextIntB bound => Sys2Proof.Machine.execNextIntB bound s
  | .nextIntR lo hi => Sys2Proof.Machine.execNextIntR lo hi s
  | .nextLongB bound => Sys2Proof.Machine.execNextLongB bound s
  | .nextLongR lo hi => Sys2Proof.Machine.execNextLongR lo hi s
  | .nextDouble => Sys2Proof.Machine.execNextDouble s
  | .nextFloat => Sys2Proof.Machine.execNextFloat s
  | .nextBytes len => Sys2Proof.Machine.execNextBytes len s

end Sys2Proof.Machine
end

