-- ==== Sys2Proof/Machine/Fetch.lean ====
section
/-! DEFINITION. What a turn finds to do before any command is run: which command word the port is to run,
or that it has no step (41_advance.md R95); and the turns of the environment and of the requesters that are
no step of the block (70_reset_and_hazards.md R180, R188, R189, R194). -/

namespace Sys2Proof.Machine

/-- What a turn of a port finds. -/
inductive Found where
  /-- The port takes a step of this command word, from this state. -/
  | command (c : CmdWord) (s : State)
  /-- The step is complete without running a command, or the agent has no step enabled and the turn
  passes: this is the state after it. -/
  | settled (s : State)
  deriving DecidableEq, Repr

/-- The state in which the step in progress is for port `p`. -/
def State.activate (s : State) (p : Nat) : State := { s with active := p }

/-- A turn of the requester of port `p`. In `IDLE`, if it presents a command (`cmd_valid`, R71), the
block takes and latches the word (R96). In `DONE` it takes the response (R102). Otherwise nothing is
enabled for it and the turn passes (log 1). -/
def requesterTurn (p : Nat) (s : State) : Found :=
  match s.ports[p]? with
  | none => .settled s
  | some q =>
    match q.ctx.ph with
    | .idle =>
      match q.pending with
      | [] => .settled s
      | c :: rest => .command c ((s.activate p).putPort (({ q with pending := rest } : Port).latch c))
    | .done => .settled ((s.activate p).putPort q.handOver)
    | .fetch => .settled s
    | .held => .settled s
    | .read => .settled s

/-- A turn of the sequencer of port `p`: in `FETCH`, `HELD` and `READ` it carries on with the latched
command (R95); otherwise nothing is enabled for it and the turn passes (log 1). -/
def sequencerTurn (p : Nat) (s : State) : Found :=
  match s.ports[p]? with
  | none => .settled s
  | some q =>
    match q.ctx.ph with
    | .fetch => .command q.ctx.cmd (s.activate p)
    | .held => .command q.ctx.cmd (s.activate p)
    | .read => .command q.ctx.cmd (s.activate p)
    | .idle => .settled s
    | .done => .settled s

/-- A command word whose opcode is reserved. In `IDLE` it is answered `ILLEGAL_OP` (60_exceptions.md
R162); ACCEPT never leaves one in another phase. -/
def reservedCommand (s : State) : Host.Outcome State Fault Refusal :=
  match s.port? with
  | none => .fault .noSuchPort
  | some q =>
    match q.ctx.ph with
    | .idle => refuseReserved q s
    | .fetch => .fault .noCommand
    | .held => .fault .noCommand
    | .read => .fault .noCommand
    | .done => .fault .noCommand

/-- RESET (70_reset_and_hazards.md R180, R181): the words hold no value and `SEEDED` is 0, every port is
`IDLE`, every command in flight is dropped without a response. Buffers keep their bytes; what the
requesters present and have taken is theirs; `ent` is not sampled. -/
def resetBlock (s : State) : State :=
  { s with words := none, ports := s.ports.map fun q => q.putCtx Context.idle }

/-- The environment drives the entropy input (R72, R194). -/
def driveEntropy (v : Word) (s : State) : State := { s with ent := v }

/-- A requester's store into its own buffer. Outside an in-flight `NEXTBYTES` it lands (R40). While one is in
flight "what it writes there may be overwritten", and after RESPOND with `OK` every byte below `LEN` is that
of the command (R189). So a store lands at an index the command has not written yet, where its COMMIT then
overwrites it; at an index it has written already the store has no lasting effect and the command's byte
stays. DESIGN CHOICE, unsafe (log 12): when the overwriting happens. -/
def Port.store (i : BitVec 32) (v : Byte) (q : Port) : Port :=
  if q.ctx.written i.toNat then q else { q with buf := q.buf.write i.toNat v }

/-- What a requester does on its own side of port `p`. A port the block does not have is none (log 1). -/
def State.atPort (p : Nat) (f : Port → Port) (s : State) : State := { s with ports := s.ports.modify p f }

/-- The requester of port `p` stores a byte into its own buffer (R40, R189, R194; log 12). -/
def requesterStore (p : Nat) (i : BitVec 32) (v : Byte) (s : State) : State := s.atPort p (Port.store i v)

/-- A requester presents one more command (30_encoding.md R71). The word waits until the port is `IDLE` and
the words before it are taken; the block refuses none (R194). -/
def Port.present (c : CmdWord) (q : Port) : Port := { q with pending := q.pending ++ [c] }

/-- The requester of port `p` presents a command: "any 133-bit command", at any time and without end (R188,
R194; log 1). -/
def requesterPresent (p : Nat) (c : CmdWord) (s : State) : State := s.atPort p (Port.present c)

end Sys2Proof.Machine
end

