-- ==== Sys2Proof/Machine/Step.lean ====
section
/-! DEFINITION. One step of the machine (41_advance.md R95): the turn that comes next is taken. -/

namespace Sys2Proof.Machine

/-- The step of a command word: the command it decodes to, or the answer to a reserved opcode. -/
def runCommand (c : CmdWord) (s : State) : Host.Outcome State Fault Refusal :=
  match decode c with
  | .ok i => exec i s
  | .error _ => reservedCommand s

/-- What a turn found is carried out. -/
def runFound : Found → Host.Outcome State Fault Refusal
  | .command c s => runCommand c s
  | .settled s => .next s

/-- One turn, taken. -/
def takeTurn (t : Turn) (s : State) : Host.Outcome State Fault Refusal :=
  match t with
  | .requester p => runFound (requesterTurn p s)
  | .sequencer p => runFound (sequencerTurn p s)
  | .reset => .next (resetBlock s)
  | .drive v => .next (driveEntropy v s)
  | .store p i v => .next (requesterStore p i v s)
  | .present p c => .next (requesterPresent p c s)

/-- One step: the next turn of the schedule. With no turn left nobody acts and nothing changes
(70_reset_and_hazards.md R183: "The block never stops of its own accord"). -/
def step (s : State) : Host.Outcome State Fault Refusal :=
  match s.schedule with
  | [] => .next s
  | t :: rest => takeTurn t { s with schedule := rest }

/-- The port with a command word presented and nothing in flight, ready to take it. -/
def Port.presenting (q : Port) (c : CmdWord) : Port :=
  { q with ctx := Context.idle, pending := c :: q.pending }

/-- The state whose next step accepts and runs the command word: its requester presents it on port 0,
which is idle, and the next turn is that requester's. A state of no ports, which no block is, is given
one. DESIGN CHOICE, safe (log 10). -/
def State.withFetchWord (s : State) (nbits w : Nat) : State :=
  match s.ports with
  | [] =>
    { s with
      ports := [Port.reset.presenting (tableCmd nbits w)]
      schedule := .requester 0 :: s.schedule }
  | q :: qs =>
    { s with
      ports := q.presenting (tableCmd nbits w) :: qs
      schedule := .requester 0 :: s.schedule }

end Sys2Proof.Machine
end

