-- ==== Sys2Proof/WellFormed.lean ====
section
/-! DEFINITION. What the assembler accepts (30_encoding.md R73). A term of `Instr` needs no check: its
fields hold exactly what the encoding can express (R64, 93_implementation_defined.md U2). The check is
on the integers of the notation. -/

namespace Sys2Proof

/-- `v` can be stored in a field of `n` bits, as an unsigned value or in two's complement (R73:
"decimal (optionally signed) or `0x` hexadecimal integers").
DESIGN CHOICE, safe (log 11): an integer that fits neither way is an assembly error. -/
def fitsField (n : Nat) (v : Int) : Bool :=
  decide (-(2 ^ n) ≤ 2 * v) && decide (v < 2 ^ n)

/-- The assembler accepts the command: every operand fits its field (R64), `LEN` is unsigned, and the
`n` of `NEXTBITS` is 1 to 32 ("an `n` outside 1 to 32 is an assembly error", R73). -/
def AsmOp.wellFormed : AsmOp → Bool
  | .seed1 s => fitsField 64 s
  | .seed2 a b => fitsField 64 a && fitsField 64 b
  | .seedE => true
  | .getW0 => true
  | .getW1 => true
  | .copy => true
  | .nextLong => true
  | .nextInt => true
  | .nextBits n => decide (1 ≤ n) && decide (n ≤ 32)
  | .nextBool => true
  | .nextIntB bound => fitsField 32 bound
  | .nextIntR lo hi => fitsField 32 lo && fitsField 32 hi
  | .nextLongB bound => fitsField 64 bound
  | .nextLongR lo hi => fitsField 64 lo && fitsField 64 hi
  | .nextDouble => true
  | .nextFloat => true
  | .nextBytes len => decide (0 ≤ len) && decide (len < 2 ^ 32)

/-- A line names a port the block has (`0 .. NPORTS-1`, 10_state.md R27) and a command the assembler
accepts. -/
def AsmLine.wellFormed (nports : Nat) : AsmLine → Bool
  | .command port op => decide (port < nports) && op.wellFormed
  | .reset => true
  | .readState port => decide (port < nports)

end Sys2Proof
end

