-- ==== Sys2Proof/Machine/Assembler.lean ====
section
/-! DEFINITION. The assembler (30_encoding.md R73) and the pseudo-commands of one block (R74). -/

namespace Sys2Proof.Machine

open Sys2Proof

/-- The command a line of the notation names: signed operands in two's complement in their field, and
`n - 1` stored for the `n` of `NEXTBITS` (R73). -/
def asmInstr : AsmOp → Instr
  | .seed1 s => .seed1 (BitVec.ofInt 64 s)
  | .seed2 a b => .seed2 (BitVec.ofInt 64 a) (BitVec.ofInt 64 b)
  | .seedE => .seedE
  | .getW0 => .getW0
  | .getW1 => .getW1
  | .copy => .copy
  | .nextLong => .nextLong
  | .nextInt => .nextInt
  | .nextBits n => .nextBits (BitVec.ofInt 5 (n - 1))
  | .nextBool => .nextBool
  | .nextIntB bound => .nextIntB (BitVec.ofInt 32 bound)
  | .nextIntR lo hi => .nextIntR (BitVec.ofInt 32 lo) (BitVec.ofInt 32 hi)
  | .nextLongB bound => .nextLongB (BitVec.ofInt 64 bound)
  | .nextLongR lo hi => .nextLongR (BitVec.ofInt 64 lo) (BitVec.ofInt 64 hi)
  | .nextDouble => .nextDouble
  | .nextFloat => .nextFloat
  | .nextBytes len => .nextBytes (BitVec.ofInt 32 len)

/-- The command word of a line; none is an assembly error (R73). -/
def assemble (o : AsmOp) : Option CmdWord :=
  if o.wellFormed then some (encode (asmInstr o)) else none

/-- The turn that a line of the notation asks for, the pseudo-commands expanded (R74): a command is presented
by the requester of its port, `RESET` is no command, `STATE pp` is `COPY` on that port. -/
def assembleLine (nports : Nat) (l : AsmLine) : Option Turn :=
  if l.wellFormed nports then
    match l with
    | .command p o => (assemble o).map (Turn.present p)
    | .reset => some .reset
    | .readState p => (assemble .copy).map (Turn.present p)
  else none

end Sys2Proof.Machine
end

