-- ==== Sys2Proof/Machine/Instances.lean ====
section
/-! DEFINITION. Several blocks (10_state.md R35, 60_exceptions.md R175), engine equality
(44_bytes_and_state_access.md R149) and `CLONE` (R148, 30_encoding.md R74). -/

namespace Sys2Proof.Machine

/-- Several instances of the block; they share nothing (R35). -/
abbrev Instances := List State

/-- One step of instance `k`; an index that names no instance steps none. -/
def Instances.stepAt (k : Nat) (es : Instances) : Host.Outcome Instances Fault Refusal :=
  match es[k]? with
  | none => .next es
  | some s =>
    match step s with
    | .next s' => .next (es.set k s')
    | .fault f => .fault f
    | .refused r => .refused r

/-- Engine equality (R149): both instances seeded, and both state words equal. -/
def SameEngine (e1 e2 : State) : Prop :=
  ∃ g : Snapshot, e1.words = some g ∧ e2.words = some g

/-- The second half of `CLONE` (R74, R148): the `SEED2` whose operands are the two words in the data that
`COPY` returned. -/
def cloneCommand (d : Data) : CmdWord :=
  encode (.seed2 (d.extractLsb' 0 64) (d.extractLsb' 64 64))

end Sys2Proof.Machine
end

