-- ==== Sys2Proof/Machine/Signals.lean ====
section
/-! DEFINITION. The signals of a port (30_encoding.md R71) as functions of the state, and the response word
(R68). -/

namespace Sys2Proof.Machine

/-- The packed response `RSP = {ST, D}` of 130 bits (R68). -/
def Response.word (r : Response) : BitVec 130 := r.st.code ++ r.data

/-- `cmd_ready[p]`: "`1` exactly when `PH[p] = IDLE`" (R71). -/
def Port.cmdReady (q : Port) : Bool := decide (q.ctx.ph = .idle)

/-- `cmd_valid[p]`: the requester presents a command (R71). -/
def Port.cmdValid (q : Port) : Bool := !q.pending.isEmpty

/-- `rsp_valid[p]`: "`1` exactly when `PH[p] = DONE`" (R71). -/
def Port.rspValid (q : Port) : Bool := decide (q.ctx.ph = .done)

/-- `rsp[p]`: the response word, "meaningful while `rsp_valid[p] = 1`" (R71). -/
def Port.rsp (q : Port) : BitVec 130 := Response.word ⟨q.ctx.st, q.ctx.res⟩

end Sys2Proof.Machine
end

