-- ==== Sys2Proof/Machine/Collapsed.lean ====
section
/-! DEFINITION. The filter table of 41_advance.md R104, and the simpler machine of R100, in which a draw is
the one atomic step ADVANCE of R93 instead of SNAPSHOT and COMMIT. The machine of the model is `step`;
this one is here so that R100 can be stated. -/

namespace Sys2Proof.Machine

/-- The response data of a single-draw command with raw value `r`: the filter table (R104) and the
placement (30_encoding.md R70). `none` for the commands that are not in the table. -/
def drawData : Instr → Word → Option Data
  | .seed1 _, _ => none
  | .seed2 _ _, _ => none
  | .seedE, _ => none
  | .getW0, _ => none
  | .getW1, _ => none
  | .copy, _ => none
  | .nextLong, r => some (placeWord r)
  | .nextInt, r => some (placeSigned (filterInt r))
  | .nextBits n, r => some (placeSigned (filterBits n r))
  | .nextBool, r => some (placeBool (filterBool r))
  | .nextIntB bound, r => some (placeSigned (filterIntB bound r))
  | .nextIntR lo hi, r => some (placeSigned (filterIntR lo hi r))
  | .nextLongB bound, r => some (placeWord (filterLongB bound r))
  | .nextLongR lo hi, r => some (placeWord (filterLongR lo hi r))
  | .nextDouble, r => some (placeWord (filterDouble r))
  | .nextFloat, r => some (placeHalf (filterFloat r))
  | .nextBytes _, _ => none

/-- What one draw of the command in flight does to its port. -/
def finishDraw (i : Instr) (r : Word) (q : Port) : Port :=
  match drawData i r with
  | some d => q.respond .ok d
  | none => fillBytes r q

/-- ADVANCE (R93) on behalf of the command that port `p` has in flight. -/
def advance (p : Nat) (q : Port) (s : State) : Host.Outcome State Fault Refusal :=
  match s.words, decode q.ctx.cmd with
  | some g, .ok i =>
    .next { s with words := some (next g), ports := s.ports.set p (finishDraw i (raw g) q) }
  | none, _ => .fault .noStateWords
  | some _, .error _ => .fault .noCommand

/-- The port without its snapshot: `HELD` is `FETCH` again, and `T0`, `T1` hold nothing. -/
def Port.dropSnapshot (q : Port) : Port :=
  q.putCtx
    { q.ctx with
      ph := if q.ctx.ph = .held then .fetch else q.ctx.ph
      t0 := 0
      t1 := 0 }

/-- The state as the simpler machine sees it: no port holds a snapshot, and which port the last step was
for is forgotten. -/
def State.collapse (s : State) : State :=
  { s with active := 0, ports := s.ports.map Port.dropSnapshot }

/-- An outcome with its state so collapsed. -/
def collapseOutcome : Host.Outcome State Fault Refusal → Host.Outcome State Fault Refusal
  | .next s => .next s.collapse
  | .fault f => .fault f
  | .refused r => .refused r

/-- One turn of the simpler machine: as `takeTurn`, but a port in `FETCH` advances at once. -/
def simpleTurn (t : Turn) (s : State) : Host.Outcome State Fault Refusal :=
  match t with
  | .sequencer p =>
    match s.ports[p]? with
    | none => .next s.collapse
    | some q =>
      if q.ctx.ph = .fetch then collapseOutcome (advance p q s) else collapseOutcome (takeTurn t s)
  | .requester _ => collapseOutcome (takeTurn t s)
  | .reset => collapseOutcome (takeTurn t s)
  | .drive _ => collapseOutcome (takeTurn t s)
  | .store _ _ _ => collapseOutcome (takeTurn t s)
  | .present _ _ => collapseOutcome (takeTurn t s)

end Sys2Proof.Machine
end

