-- ==== Sys2Proof/Safety.lean ====
section
/-! DEFINITION. The terms in which claims about runs are made: the invariant, runs over a list of turns,
the draws of a run, quiescence, fairness. -/

namespace Sys2Proof.Machine

/-- What holds of a port between steps, with `SEEDED` given. -/
structure Port.Inv (seeded : Bool) (q : Port) : Prop where
  /-- The buffer is in its canonical form. -/
  bufWf : q.buf.wf
  /-- No command in flight: the context registers hold no value (10_state.md R28, log 4). -/
  idleCtx : q.ctx.ph = .idle → q.ctx = Context.idle
  /-- A draw-class command in flight, and the block seeded (41_advance.md R97). -/
  drawing : q.ctx.ph = .fetch ∨ q.ctx.ph = .held → classOf q.ctx.op = .draw ∧ seeded = true
  /-- A `NEXTBYTES` in flight has bytes left to write, at indices below its length (20_memory.md R40). -/
  filling : q.ctx.ph = .fetch ∨ q.ctx.ph = .held → q.ctx.op = 0x12 →
    0 < q.ctx.cnt.toNat ∧ q.ctx.cnt.toNat ≤ (lowHalf q.ctx.a).toNat
  /-- A read-class command in flight, and the block seeded (44_bytes_and_state_access.md R144). -/
  reading : q.ctx.ph = .read → classOf q.ctx.op = .read ∧ seeded = true
  /-- A response with `ST != 0` has `D = 0` (30_encoding.md R69). -/
  refusedEmpty : q.ctx.ph = .done → q.ctx.st ≠ .ok → q.ctx.res = 0
  /-- A `NEXTBYTES` answered `OK` has no byte left to write (44_bytes_and_state_access.md R141). -/
  filledAll : q.ctx.ph = .done → q.ctx.st = .ok → q.ctx.op = 0x12 → q.ctx.cnt = 0

/-- What holds between steps. -/
structure State.Inv (s : State) : Prop where
  /-- `NPORTS` is at least 1 (00_scope.md R9). -/
  somePort : s.ports ≠ []
  /-- The state words are never both zero (10_state.md R21). -/
  notBothZero : ∀ g, s.words = some g → ¬(g.s0 = 0 ∧ g.s1 = 0)
  /-- Every port keeps its own invariant. -/
  eachPort : ∀ q ∈ s.ports, q.Inv s.seeded

/-- The run of a list of turns, ended by a stop. -/
def run : List Turn → State → Host.Outcome State Fault Refusal
  | [], s => .next s
  | t :: ts, s =>
    match takeTurn t s with
    | .next s' => run ts s'
    | .fault f => .fault f
    | .refused r => .refused r

/-- The run of a list of turns of the simpler machine (41_advance.md R100). -/
def simpleRun : List Turn → State → Host.Outcome State Fault Refusal
  | [], s => .next s
  | t :: ts, s =>
    match simpleTurn t s with
    | .next s' => simpleRun ts s'
    | .fault f => .fault f
    | .refused r => .refused r

/-- The raw value that the successful COMMIT of this turn retires, with the port it goes to; none if the
turn is no successful COMMIT (41_advance.md R98). -/
def drawOfTurn (t : Turn) (s : State) : Option (Nat × Word) :=
  match t with
  | .sequencer p =>
    match s.ports[p]?, s.words with
    | some q, some g => if q.ctx.ph = .held ∧ g = q.ctx.snapshot then some (p, raw g) else none
    | some _, none => none
    | none, _ => none
  | .requester _ => none
  | .reset => none
  | .drive _ => none
  | .store _ _ _ => none
  | .present _ _ => none

/-- The draws of a run, in linearisation order (00_scope.md R19), each with its port. -/
def drawsOf : List Turn → State → List (Nat × Word)
  | [], _ => []
  | t :: ts, s =>
    match takeTurn t s with
    | .next s' =>
      match drawOfTurn t s with
      | some d => d :: drawsOf ts s'
      | none => drawsOf ts s'
    | .fault _ => []
    | .refused _ => []

/-- Every port is in `IDLE` (70_reset_and_hazards.md R183). -/
def Quiescent (s : State) : Prop := ∀ q ∈ s.ports, q.ctx.ph = .idle

/-- The first `n` turns of an infinite schedule, run. -/
def runUpTo (sched : Nat → Turn) (n : Nat) (s : State) : Host.Outcome State Fault Refusal :=
  run ((List.range n).map sched) s

/-- The schedule is weakly fair to the sequencer of port `p` (`FAIR`, 00_scope.md R9): it always comes to
its turn again. A sequencer's step stays enabled until it is taken. -/
def SequencerFair (sched : Nat → Turn) (p : Nat) : Prop := ∀ n, ∃ m, n ≤ m ∧ sched m = .sequencer p

/-- A failed COMMIT of port `p` (41_advance.md R98, R101): its sequencer's turn in `HELD`, with a snapshot that
is not the state any more. -/
def FailedCommit (p : Nat) (t : Turn) (s : State) : Prop :=
  t = .sequencer p ∧ ∃ q, s.ports[p]? = some q ∧ q.ctx.ph = .held ∧ s.words ≠ some q.ctx.snapshot

/-- A turn that is the sequencer's of some port other than `p`, and makes a draw. -/
def OtherDraws (p : Nat) (t : Turn) (s : State) : Prop :=
  ∃ p' r, drawOfTurn t s = some (p', r) ∧ p' ≠ p

end Sys2Proof.Machine

namespace Sys2Proof.Machine

/-- A successful COMMIT of the command answers it with data `d` such that `result r d`, where `r` is the
raw value of the draw, advances the state, and changes nothing else (41_advance.md R98). -/
def CommitAnswers (i : Instr) (result : Word → Data → Prop) : Prop :=
  ∀ (s : State) (q : Port) (g : Snapshot),
    s.port? = some q → q.ctx.ph = .held → s.words = some g → q.ctx.snapshot = g →
    ∃ d, result (g.s0 + g.s1) d ∧
      exec i s = .next ((s.putPort (q.respond .ok d)).putWords (next g))

/-- READ of the command answers it with `data` of the state words and changes nothing else
(44_bytes_and_state_access.md R144). -/
def ReadAnswers (i : Instr) (data : Snapshot → Data) : Prop :=
  ∀ (s : State) (q : Port) (g : Snapshot),
    s.port? = some q → q.ctx.ph = .read → s.words = some g →
    exec i s = .next (s.putPort (q.respond .ok (data g)))

/-- ACCEPT of the command while `SEEDED = 0` stores the pair, sets `SEEDED` and answers `OK`
(40_seeding.md R80). -/
def SeedLoads (i : Instr) (pair : State → Snapshot) : Prop :=
  ∀ (s : State) (q : Port), s.port? = some q → q.ctx.ph = .idle → s.words = none →
    exec i s = .next ((s.putPort (q.respond .ok 0)).putWords (pair s))

/-- ACCEPT of the command with this status instead of `OK`: data 0 and no other effect (60_exceptions.md
R161). -/
def AcceptRefuses (i : Instr) (st : Status) (when : State → Prop) : Prop :=
  ∀ (s : State) (q : Port), s.port? = some q → q.ctx.ph = .idle → when s →
    exec i s = .next (s.putPort (q.respond st 0))

/-- `SEEDED = 0`, and the words hold no value. -/
def Unseeded (s : State) : Prop := s.words = none

/-- `SEEDED = 1`. -/
def IsSeeded (s : State) : Prop := ∃ g, s.words = some g

/-- The rule of a command that makes one draw: its word, with any operand fields, decodes to the command;
its COMMIT gives the result; before seeding it is `UNSEEDED`. -/
def OneDrawRule (op : BitVec 5) (i : Word → Word → Instr) (result : Word → Word → Word → Data → Prop) :
    Prop :=
  ∀ a b : Word, decode (packCmd op a b) = .ok (i a b) ∧ CommitAnswers (i a b) (result a b) ∧
    AcceptRefuses (i a b) .unseeded Unseeded

end Sys2Proof.Machine
end

