-- ==== Sys2Proof/Certificates/Slice0/Obligations.lean ====
section
/-! DEFINITION. The statements about the machine, one `def Obligations.<Name> : Prop` each. Every statement
is about every state, any number of ports, any schedule; "R<n>" is the rule of the spec it states. -/

open Sys2Proof Sys2Proof.Machine

/-! ## Encoding -/

/-- R60, R62, R64: every command, with every operand value, is what its own command word decodes to. -/
def Obligations.DecodeOfEncodeIsTheCommand : Prop := ∀ i : Instr, decode (encode i) = .ok i

/-- R65: the operand bits a command does not read change nothing about the step of the word: all of `A`
and `B` for format N, all of `B` for format A, and the unread upper bits of `NEXTBITS`, `NEXTINT.B`,
`NEXTBYTES` and `NEXTINT.R`. -/
def Obligations.UnreadOperandBitsChangeNothing : Prop :=
  ∀ (a a' b b' : Word) (s : State),
    (∀ op ∈ ([0x03, 0x04, 0x05, 0x06, 0x08, 0x09, 0x0B, 0x10, 0x11] : List (BitVec 5)),
      runCommand (packCmd op a b) s = runCommand (packCmd op a' b') s) ∧
    (∀ op ∈ ([0x01, 0x0A, 0x0C, 0x0E, 0x12] : List (BitVec 5)),
      runCommand (packCmd op a b) s = runCommand (packCmd op a b') s) ∧
    (a.setWidth 5 = a'.setWidth 5 →
      runCommand (packCmd 0x0A a b) s = runCommand (packCmd 0x0A a' b') s) ∧
    (a.setWidth 32 = a'.setWidth 32 →
      runCommand (packCmd 0x0C a b) s = runCommand (packCmd 0x0C a' b') s ∧
      runCommand (packCmd 0x12 a b) s = runCommand (packCmd 0x12 a' b') s) ∧
    (a.setWidth 32 = a'.setWidth 32 → b.setWidth 32 = b'.setWidth 32 →
      runCommand (packCmd 0x0D a b) s = runCommand (packCmd 0x0D a' b') s)

/-- R66: the words the decoder refuses are exactly those with opcode `0x00`, `0x07` or `0x13` to `0x1F`,
and it names the opcode. -/
def Obligations.ReservedOpcodesAreExactlyTheFifteen : Prop :=
  ∀ c : CmdWord,
    ((c.extractLsb' 128 5).toNat ∈ [0x00, 0x07] ∨ 0x13 ≤ (c.extractLsb' 128 5).toNat ↔
      ∃ e, decode c = .error e) ∧
    ∀ e, decode c = .error e → e = .reservedOpcode (c.extractLsb' 128 5)

/-- Words written out from R60 and R62, as 95_test_vectors.md section 10 lists them, decode to the
commands they stand for. -/
def Obligations.SampleWordsDecode : Prop :=
  decode 0x01000000000000007B0000000000000000#133 = .ok (.seed1 123) ∧
  decode 0x02000000000000007B00000000000001C8#133 = .ok (.seed2 123 456) ∧
  decode 0x0600000000000000000000000000000000#133 = .ok .copy ∧
  decode 0x0A00000000000000070000000000000000#133 = .ok (.nextBits 7) ∧
  decode 0x0CDEADBEEF00000064FFFFFFFFFFFFFFFF#133 = .ok (.nextIntB 100) ∧
  decode 0x0D000000000000000A0000000000000014#133 = .ok (.nextIntR 10 20) ∧
  decode 0x0FFFFFFFFFFFFFFFFB0000000000000005#133 = .ok (.nextLongR (-5) 5) ∧
  decode 0x1000000000000000000000000000000000#133 = .ok .nextDouble ∧
  decode 0x12000000000000000B0000000000000000#133 = .ok (.nextBytes 11) ∧
  decode 0x0700000000000000000000000000000000#133 = .error (.reservedOpcode 0x07)

/-- R73: the assembler refuses an `n` of `NEXTBITS` outside 1 to 32 and encodes every other; a 32-bit and
a 64-bit signed operand in its range, of each of the four commands that have one, is stored in two's
complement in its field (`lo` in `A`, `hi` in `B`), the unused bits zero. -/
def Obligations.AssemblerStoresOperands : Prop :=
  (∀ n : Int, ¬(1 ≤ n ∧ n ≤ 32) → assemble (.nextBits n) = none) ∧
  (∀ n : Nat, 1 ≤ n → n ≤ 32 →
    assemble (.nextBits n) = some (packCmd 0x0A (BitVec.ofNat 64 (n - 1)) 0)) ∧
  (∀ v : Int, -2 ^ 31 ≤ v → v < 2 ^ 31 → ∃ h : Half, h.toInt = v ∧
    assemble (.nextIntB v) = some (packCmd 0x0C (h.setWidth 64) 0)) ∧
  (∀ v : Int, -2 ^ 63 ≤ v → v < 2 ^ 63 → ∃ w : Word, w.toInt = v ∧
    assemble (.nextLongB v) = some (packCmd 0x0E w 0)) ∧
  (∀ lo hi : Int, -2 ^ 31 ≤ lo → lo < 2 ^ 31 → -2 ^ 31 ≤ hi → hi < 2 ^ 31 →
    ∃ l h : Half, l.toInt = lo ∧ h.toInt = hi ∧
      assemble (.nextIntR lo hi) = some (packCmd 0x0D (l.setWidth 64) (h.setWidth 64))) ∧
  (∀ lo hi : Int, -2 ^ 63 ≤ lo → lo < 2 ^ 63 → -2 ^ 63 ≤ hi → hi < 2 ^ 63 →
    ∃ l h : Word, l.toInt = lo ∧ h.toInt = hi ∧
      assemble (.nextLongR lo hi) = some (packCmd 0x0F l h))

/-- R68, R69: the response word is `{ST, D}` with the status codes 0 to 3. -/
def Obligations.ResponseWordHasStatusAndData : Prop :=
  (∀ r : Response, r.word.extractLsb' 128 2 = r.st.code ∧ r.word.extractLsb' 0 128 = r.data) ∧
  Status.code .ok = 0 ∧ Status.code .illegalOp = 1 ∧ Status.code .unseeded = 2 ∧
  Status.code .alreadySeeded = 3

/-! ## The step -/

/-- A requester's turn on an idle port with a command presented is the ACCEPT of that command: the word is
latched and `exec` runs what it decodes to. That the schedule and the commands presented stand in State
is the model's form (log 1). -/
def Obligations.AcceptStepRunsTheDecodedCommand : Prop :=
  ∀ (s : State) (p : Nat) (rest : List Turn) (q : Port) (c : CmdWord) (cs : List CmdWord) (i : Instr),
    s.schedule = .requester p :: rest → s.ports[p]? = some q → q.ctx.ph = .idle →
    q.pending = c :: cs → decode c = .ok i →
    step s = exec i
      { s with
        schedule := rest
        active := p
        ports := s.ports.set p
          { q with
            pending := cs
            ctx := { q.ctx with op := opField c, a := aField c, b := bField c } } }

/-- A sequencer's turn on a port in `FETCH`, `HELD` or `READ` runs the command that is latched there
(log 1). -/
def Obligations.SequencerStepRunsTheLatchedCommand : Prop :=
  ∀ (s : State) (p : Nat) (rest : List Turn) (q : Port) (i : Instr),
    s.schedule = .sequencer p :: rest → s.ports[p]? = some q →
    (q.ctx.ph = .fetch ∨ q.ctx.ph = .held ∨ q.ctx.ph = .read) →
    decode (packCmd q.ctx.op q.ctx.a q.ctx.b) = .ok i →
    step s = exec i { s with schedule := rest, active := p }

/-- The word that `withFetchWord` places is the one the very next step accepts and runs (the model's own
load, log 10). -/
def Obligations.PlacedWordIsRunNext : Prop :=
  ∀ (s : State) (q : Port) (qs : List Port) (nbits w : Nat) (i : Instr),
    s.ports = q :: qs → decodeTableWord nbits w = some i →
    step (s.withFetchWord nbits w) = exec i
      { s with
        active := 0
        ports := ({ q with ctx := Context.idle } : Port).latch (tableCmd nbits w) :: qs }

/-- The steps of a machine whose schedule begins with some turns are the run of those turns (log 1). -/
def Obligations.StepsAreTheTurnsOfTheSchedule : Prop :=
  ∀ (ts rest : List Turn) (s : State),
    core.run ts.length { s with schedule := ts ++ rest } = run ts { s with schedule := rest }

/-- R96, R56: whatever command word an idle port accepts, all 133 bits of it are latched and it is taken
from what the requester presents; the port is no longer idle. A requester may present any further word at any
time (R194): it joins those presented and nothing else changes (that presented words wait in a queue is the model's form,
log 1). -/
def Obligations.AcceptLatchesTheWholeWord : Prop :=
  (∀ (s s' : State) (p : Nat) (q : Port) (c : CmdWord) (cs : List CmdWord),
    s.ports[p]? = some q → q.ctx.ph = .idle → q.pending = c :: cs →
    takeTurn (.requester p) s = .next s' →
    ∃ q', s'.ports[p]? = some q' ∧ packCmd q'.ctx.op q'.ctx.a q'.ctx.b = c ∧ q'.pending = cs ∧
      q'.ctx.ph ≠ .idle) ∧
  ∀ (s : State) (p : Nat) (q : Port) (c : CmdWord), s.ports[p]? = some q →
    takeTurn (.present p c) s = .next
      { s with ports := s.ports.set p { q with pending := q.pending ++ [c] } }

/-- R166: the status of an accepted command is decided in this order: a reserved opcode gives
`ILLEGAL_OP`; otherwise a seed command while seeded gives `ALREADY_SEEDED`; otherwise a draw or read
command while not seeded gives `UNSEEDED`; a refused command has data 0 and leaves the words alone. -/
def Obligations.StatusIsDecidedInOrder : Prop :=
  ∀ (s s' : State) (p : Nat) (q : Port) (c : CmdWord) (cs : List CmdWord),
    s.ports[p]? = some q → q.ctx.ph = .idle → q.pending = c :: cs →
    takeTurn (.requester p) s = .next s' →
    ∃ q', s'.ports[p]? = some q' ∧
      (classOf (opField c) = .reserved →
        q'.ctx.ph = .done ∧ q'.ctx.st = .illegalOp ∧ q'.ctx.res = 0 ∧ s'.words = s.words) ∧
      (classOf (opField c) = .seed → s.words ≠ none →
        q'.ctx.ph = .done ∧ q'.ctx.st = .alreadySeeded ∧ q'.ctx.res = 0 ∧ s'.words = s.words) ∧
      (classOf (opField c) = .draw ∨ classOf (opField c) = .read → s.words = none →
        q'.ctx.ph = .done ∧ q'.ctx.st = .unseeded ∧ q'.ctx.res = 0 ∧ s'.words = none) ∧
      (classOf (opField c) = .seed → s.words = none →
        q'.ctx.ph = .done ∧ q'.ctx.st = .ok ∧ q'.ctx.res = 0 ∧ s'.words ≠ none) ∧
      (classOf (opField c) = .draw → s.words ≠ none → s'.words = s.words ∧
        (q'.ctx.ph = .fetch ∨ q'.ctx.ph = .done ∧ q'.ctx.st = .ok ∧ q'.ctx.res = 0)) ∧
      (classOf (opField c) = .read → s.words ≠ none → q'.ctx.ph = .read ∧ s'.words = s.words)

/-- R162: a word with a reserved opcode is answered `ILLEGAL_OP` with data 0 in its ACCEPT, whatever
`SEEDED` is; the words, every other port and every buffer are as they were. -/
def Obligations.ReservedCommandIsAnsweredIllegalOp : Prop :=
  ∀ (s : State) (p : Nat) (q : Port) (c : CmdWord) (cs : List CmdWord) (e : DecodeError),
    s.ports[p]? = some q → q.ctx.ph = .idle → q.pending = c :: cs → decode c = .error e →
    takeTurn (.requester p) s = .next
      { s with
        active := p
        ports := s.ports.set p
          { q with
            pending := cs
            ctx := { q.ctx with
              op := opField c, a := aField c, b := bField c
              st := .illegalOp, res := 0, ph := .done } } }

/-! ## The mixing functions -/

/-- R91: the output function and the next-state function, with the rotations of the bit-vector library. -/
def Obligations.AdvanceIsTheStatedFormula : Prop :=
  ∀ a b : Word,
    raw ⟨a, b⟩ = a + b ∧
    next ⟨a, b⟩ =
      ⟨a.rotateLeft 55 ^^^ (b ^^^ a) ^^^ ((b ^^^ a) <<< 14), (b ^^^ a).rotateLeft 36⟩

/-- R36: `next` can be undone, so it is a bijection, and no pair but `(0, 0)` goes to `(0, 0)`. -/
def Obligations.NextIsABijectionAndKeepsNonZero : Prop :=
  (∀ n0 n1 a b : Word, next ⟨a, b⟩ = ⟨n0, n1⟩ →
    a = (n0 ^^^ n1.rotateLeft 28 ^^^ (n1.rotateLeft 28 <<< 14)).rotateLeft 9 ∧
    b = n1.rotateLeft 28 ^^^ a) ∧
  Function.Bijective next ∧ next ⟨0, 0⟩ = ⟨0, 0⟩ ∧
  ∀ g, ¬(g.s0 = 0 ∧ g.s1 = 0) → ¬((next g).s0 = 0 ∧ (next g).s1 = 0)

/-- R81: `mix64` is the stated sequence of shifts and wraparound products, `mix64(0) = 0`, and it is a
bijection. -/
def Obligations.MixIsTheStatedBijection : Prop :=
  (∀ z z1 z2 z3 z4 : Word,
    z1 = z ^^^ (z >>> 30) → z2 = z1 * 0xBF58476D1CE4E5B9 →
    z3 = z2 ^^^ (z2 >>> 27) → z4 = z3 * 0x94D049BB133111EB →
    mix64 z = z4 ^^^ (z4 >>> 31)) ∧
  mix64 0 = 0 ∧ Function.Bijective mix64

/-- R84: the pair `SEED1` mixes is never `(0, 0)`, for any seed, before the substitution is reached; so
the pair it stores is the pair it mixes. -/
def Obligations.SeedExpansionIsNeverBothZero : Prop :=
  ∀ s : Word,
    ¬(mix64 (s + 0x9E3779B97F4A7C15) = 0 ∧ mix64 (s + 2 * 0x9E3779B97F4A7C15) = 0) ∧
    seed1Words s = ⟨mix64 (s + 0x9E3779B97F4A7C15), mix64 (s + 2 * 0x9E3779B97F4A7C15)⟩

/-! ## The seed class -/

/-- R82: `SEED1 s`. -/
def Obligations.SeedOneExpandsTheSeed : Prop :=
  ∀ s b : Word, decode (packCmd 0x01 s b) = .ok (.seed1 s) ∧
    SeedLoads (.seed1 s) (fun _ =>
      ⟨mix64 (s + 0x9E3779B97F4A7C15), mix64 (s + 2 * 0x9E3779B97F4A7C15)⟩) ∧
    AcceptRefuses (.seed1 s) .alreadySeeded IsSeeded

/-- R83: `SEED2 a, b`, with `(0, 0)` replaced by `(1, 0)` and no other pair altered. -/
def Obligations.SeedTwoStoresThePair : Prop :=
  ∀ a b : Word, decode (packCmd 0x02 a b) = .ok (.seed2 a b) ∧
    (a = 0 ∧ b = 0 → SeedLoads (.seed2 a b) (fun _ => ⟨1, 0⟩)) ∧
    (¬(a = 0 ∧ b = 0) → SeedLoads (.seed2 a b) (fun _ => ⟨a, b⟩)) ∧
    AcceptRefuses (.seed2 a b) .alreadySeeded IsSeeded

/-- R85: `SEEDE` expands the entropy input, whatever it is, as `SEED1` expands its seed. -/
def Obligations.SeedEntropyExpandsTheInput : Prop :=
  ∀ a b : Word, decode (packCmd 0x03 a b) = .ok .seedE ∧
    SeedLoads .seedE (fun s =>
      ⟨mix64 (s.ent + 0x9E3779B97F4A7C15), mix64 (s.ent + 2 * 0x9E3779B97F4A7C15)⟩) ∧
    AcceptRefuses .seedE .alreadySeeded IsSeeded

/-- R164: a seed-class command accepted while `SEEDED = 1` is refused, and does not depend on `ent`: the
state after it is the one before with the response written. -/
def Obligations.SecondSeedIsRefused : Prop :=
  ∀ i : Instr, i.cmdClass = .seed → AcceptRefuses i .alreadySeeded IsSeeded

/-! ## The read class -/

/-- R144 to R147: the words of `GETW0` (`0x04`), `GETW1` (`0x05`) and `COPY` (`0x06`), with any operand
fields, decode to them; READ answers word 0, word 1, or both, and nothing but the response changes. -/
def Obligations.ReadsAnswerTheStateWords : Prop :=
  (∀ a b : Word, decode (packCmd 0x04 a b) = .ok .getW0 ∧ decode (packCmd 0x05 a b) = .ok .getW1 ∧
    decode (packCmd 0x06 a b) = .ok .copy) ∧
  ReadAnswers .copy (fun g => g.s1 ++ g.s0) ∧
  ReadAnswers .getW0 (fun g => g.s0.setWidth 128) ∧
  ReadAnswers .getW1 (fun g => g.s1.setWidth 128)

/-- R96, R45: an admitted read-class command goes to `READ` and changes nothing else. -/
def Obligations.ReadCommandIsAdmitted : Prop :=
  ∀ (i : Instr) (s : State) (q : Port), i.cmdClass = .read → s.port? = some q → q.ctx.ph = .idle →
    IsSeeded s → exec i s = .next (s.putPort (q.setPhase .read))

/-- R163: a draw-class or read-class command accepted while `SEEDED = 0` is answered `UNSEEDED`, with no
other effect. -/
def Obligations.UnseededCommandIsRefused : Prop :=
  ∀ i : Instr, i.cmdClass = .draw ∨ i.cmdClass = .read → AcceptRefuses i .unseeded Unseeded

/-! ## The draw class -/

/-- R96: an admitted draw-class command goes to `FETCH`; `NEXTBYTES` also sets `CNT` to its length, and a
length of 0 is answered at once. -/
def Obligations.DrawCommandIsAdmitted : Prop :=
  ∀ (i : Instr) (s : State) (q : Port), i.cmdClass = .draw → s.port? = some q → q.ctx.ph = .idle →
    IsSeeded s →
    ((∀ len, i ≠ .nextBytes len) → exec i s = .next (s.putPort (q.setPhase .fetch))) ∧
    (∀ len, i = .nextBytes len → len ≠ 0 →
      exec i s = .next (s.putPort ((q.setCount len).setPhase .fetch))) ∧
    (i = .nextBytes 0 → exec i s = .next (s.putPort ((q.setCount 0).respond .ok 0)))

/-- R97: SNAPSHOT of every draw-class command takes both words in one step and nothing else changes. -/
def Obligations.SnapshotTakesBothWords : Prop :=
  ∀ (i : Instr) (s : State) (q : Port) (g : Snapshot), i.cmdClass = .draw → s.port? = some q →
    q.ctx.ph = .fetch → s.words = some g →
    exec i s = .next (s.putPort
      { q with ctx := { q.ctx with t0 := g.s0, t1 := g.s1, ph := .held } })

/-- R98: a COMMIT whose snapshot differs from the state in any bit changes no register but `PH[p]`. -/
def Obligations.FailedCommitChangesOnlyThePhase : Prop :=
  ∀ (i : Instr) (s : State) (q : Port) (g : Snapshot), i.cmdClass = .draw → s.port? = some q →
    q.ctx.ph = .held → s.words = some g → (g.s0 ≠ q.ctx.t0 ∨ g.s1 ≠ q.ctx.t1) →
    exec i s = .next (s.putPort { q with ctx := { q.ctx with ph := .fetch } })

/-- R103: `NEXTLONG` answers the raw value. -/
def Obligations.NextLongAnswersTheRawValue : Prop :=
  OneDrawRule 0x08 (fun _ _ => .nextLong) fun _ _ r d => d = r.setWidth 128

/-- R112: `NEXTINT` answers `r[31:0]`, sign-extended to 64 bits. -/
def Obligations.NextIntAnswersTheLowHalf : Prop :=
  OneDrawRule 0x09 (fun _ _ => .nextInt) fun _ _ r d =>
    d = ((r.setWidth 32).signExtend 64).setWidth 128

/-- R113: `NEXTBITS` with `n = A[4:0] + 1` answers `v = r[31 : 32-n]`, right-aligned in 32 bits, then
sign-extended to 64. -/
def Obligations.NextBitsAnswersTheTopOfTheLowHalf : Prop :=
  OneDrawRule 0x0A (fun a _ => .nextBits (a.setWidth 5)) fun a _ r d =>
    ∀ n, n = a.toNat % 32 + 1 →
      ∃ v : Half, v = (r.extractLsb' (32 - n) n).setWidth 32 ∧ d = (v.signExtend 64).setWidth 128

/-- R119: `NEXTBOOL` answers 1 when the raw value is negative, else 0. -/
def Obligations.NextBoolTestsTheSign : Prop :=
  OneDrawRule 0x0B (fun _ _ => .nextBool) fun _ _ r d => d = if r.toInt < 0 then 1 else 0

/-- R114: `NEXTINT.B` with `bound = signed(A[31:0])` answers `floor(bound * r[63:33] / 2^31)`, which fits
32 bits. -/
def Obligations.NextIntBoundedIsTheScaledTopBits : Prop :=
  OneDrawRule 0x0C (fun a _ => .nextIntB (a.setWidth 32)) fun a _ r d =>
    ∃ v : Half, v.toInt = (a.setWidth 32).toInt * (r.toNat / 2 ^ 33 : Nat) / 2 ^ 31 ∧
      d = (v.signExtend 64).setWidth 128

/-- R116: `NEXTINT.R` answers `lo` plus the `NEXTINT.B` result for the bound `hi - lo`, both at 32 bits. -/
def Obligations.NextIntRangedAddsTheBounded : Prop :=
  OneDrawRule 0x0D (fun a b => .nextIntR (a.setWidth 32) (b.setWidth 32)) fun a b r d =>
    ∃ u : Half,
      u.toInt = (b.setWidth 32 - a.setWidth 32).toInt * (r.toNat / 2 ^ 33 : Nat) / 2 ^ 31 ∧
      d = ((a.setWidth 32 + u).signExtend 64).setWidth 128

/-- R117: `NEXTLONG.B` with `bound = signed(A)` answers `floor(unsigned(r) * bound / 2^64)`, which fits 64
bits. For a negative bound this is the spec's own decision (D17; log 9). -/
def Obligations.NextLongBoundedIsTheHighProduct : Prop :=
  OneDrawRule 0x0E (fun a _ => .nextLongB a) fun a _ r d =>
    ∃ v : Word, v.toInt = (r.toNat : Int) * a.toInt / 2 ^ 64 ∧ d = v.setWidth 128

/-- R118: `NEXTLONG.R` answers `lo` plus the `NEXTLONG.B` result for the bound `hi - lo`, both at 64 bits;
a bound that is negative rests on the spec's own decision D17 (log 9). -/
def Obligations.NextLongRangedAddsTheBounded : Prop :=
  OneDrawRule 0x0F (fun a b => .nextLongR a b) fun a b r d =>
    ∃ u : Word, u.toInt = (r.toNat : Int) * (b - a).toInt / 2 ^ 64 ∧ d = (a + u).setWidth 128

/-- R131: `NEXTDOUBLE` answers the binary64 pattern of `m / 2^53`, `m = r[52:0]`: all zero for `m = 0`,
else sign 0, exponent `970 + k` and fraction `m * 2^(52-k)` without its leading 1, where bit `k` is the most
significant 1 of `m`. -/
def Obligations.NextDoubleAnswersTheFraction : Prop :=
  OneDrawRule 0x10 (fun _ _ => .nextDouble) fun _ _ r d =>
    ∃ w : Word, d = w.setWidth 128 ∧
      (r.toNat % 2 ^ 53 = 0 → w = 0) ∧
      ∀ m k, m = r.toNat % 2 ^ 53 → 2 ^ k ≤ m → m < 2 ^ (k + 1) →
        w.msb = false ∧ (w.extractLsb' 52 11).toNat = 970 + k ∧
        (w.extractLsb' 0 52).toNat = m * 2 ^ (52 - k) - 2 ^ 52

/-- R133: `NEXTFLOAT` answers the binary32 pattern of `m / 2^24`, `m = r[23:0]`, in `D[31:0]`. -/
def Obligations.NextFloatAnswersTheFraction : Prop :=
  OneDrawRule 0x11 (fun _ _ => .nextFloat) fun _ _ r d =>
    ∃ w : Half, d = w.setWidth 128 ∧
      (r.toNat % 2 ^ 24 = 0 → w = 0) ∧
      ∀ m k, m = r.toNat % 2 ^ 24 → 2 ^ k ≤ m → m < 2 ^ (k + 1) →
        w.msb = false ∧ (w.extractLsb' 23 8).toNat = 103 + k ∧
        (w.extractLsb' 0 23).toNat = m * 2 ^ (23 - k) - 2 ^ 23

/-- R141, R41: a word with opcode `0x12` is `NEXTBYTES` of the length `A[31:0]`. A successful COMMIT of
`NEXTBYTES` with `CNT` bytes left writes the `n = min(CNT, 8)` low bytes of the raw value to the indices
`CNT - 1` down to `CNT - n`, leaves every other byte, lowers `CNT` by `n`, and is answered when none is left;
every other register, port and input is as it was. (A command in `HELD` has bytes left:
`StepKeepsTheInvariant`.) -/
def Obligations.NextBytesFillsFromTheEnd : Prop :=
  (∀ a b : Word, decode (packCmd 0x12 a b) = .ok (.nextBytes (a.setWidth 32))) ∧
  ∀ (len : Half) (s : State) (q : Port) (g : Snapshot) (n : Nat),
    s.port? = some q → q.ctx.ph = .held → s.words = some g → q.ctx.snapshot = g →
    q.ctx.cnt ≠ 0 → n = min q.ctx.cnt.toNat 8 →
    ∃ (buf : Memory) (cnt : BitVec 32),
      cnt.toNat = q.ctx.cnt.toNat - n ∧
      (∀ j < n, buf.read (q.ctx.cnt.toNat - 1 - j) = some ((g.s0 + g.s1).extractLsb' (8 * j) 8)) ∧
      (∀ k, k < q.ctx.cnt.toNat - n ∨ q.ctx.cnt.toNat ≤ k → buf.read k = q.buf.read k) ∧
      exec (.nextBytes len) s = .next ((s.putPort
        { q with
          buf := buf
          ctx := if cnt = 0 then { q.ctx with cnt := cnt, st := .ok, res := 0, ph := .done }
            else { q.ctx with cnt := cnt, ph := .fetch } }).putWords (next g))

/-- R104: the filter table gives the data of every single-draw command. -/
def Obligations.CommitAppliesTheFilterTable : Prop :=
  ∀ i : Instr, i.cmdClass = .draw → (∀ len, i ≠ .nextBytes len) →
    CommitAnswers i (fun r d => drawData i r = some d)

/-! ## The ranges and exactness of the filters -/

/-- R115: the range of the `NEXTINT.B` result at every sign of the bound. -/
def Obligations.NextIntBoundedStaysInRange : Prop :=
  ∀ (bound : Half) (r : Word),
    (0 < bound.toInt →
      0 ≤ (filterIntB bound r).toInt ∧ (filterIntB bound r).toInt ≤ bound.toInt - 1) ∧
    (bound.toInt = 0 → (filterIntB bound r).toInt = 0) ∧
    (bound.toInt < 0 →
      bound.toInt ≤ (filterIntB bound r).toInt ∧ (filterIntB bound r).toInt ≤ 0 ∧
      ((filterIntB bound r).toInt = 0 ↔ r.toNat / 2 ^ 33 = 0)) ∧
    (bound.toInt = -2 ^ 31 → (filterIntB bound r).toInt = -(r.toNat / 2 ^ 33 : Nat))

/-- R116, R118: the range of the ranged results where `hi - lo` does not wrap: `lo` to `hi - 1` for
`lo < hi`, `lo` for `lo = hi`, `hi` to `lo` for an inverted range (at 64 bits an inverted range rests on
the spec's own decision D17; log 9). -/
def Obligations.RangedDrawsStayInRange : Prop :=
  (∀ (lo hi : Half) (r : Word),
    (lo.toInt < hi.toInt → hi.toInt - lo.toInt < 2 ^ 31 →
      lo.toInt ≤ (filterIntR lo hi r).toInt ∧ (filterIntR lo hi r).toInt ≤ hi.toInt - 1) ∧
    (lo = hi → filterIntR lo hi r = lo) ∧
    (hi.toInt < lo.toInt → -2 ^ 31 ≤ hi.toInt - lo.toInt →
      hi.toInt ≤ (filterIntR lo hi r).toInt ∧ (filterIntR lo hi r).toInt ≤ lo.toInt)) ∧
  (∀ (lo hi : Word) (r : Word),
    (lo.toInt < hi.toInt → hi.toInt - lo.toInt < 2 ^ 63 →
      lo.toInt ≤ (filterLongR lo hi r).toInt ∧ (filterLongR lo hi r).toInt ≤ hi.toInt - 1) ∧
    (lo = hi → filterLongR lo hi r = lo) ∧
    (hi.toInt < lo.toInt → -2 ^ 63 ≤ hi.toInt - lo.toInt →
      hi.toInt ≤ (filterLongR lo hi r).toInt ∧ (filterLongR lo hi r).toInt ≤ lo.toInt))

/-- R117: the range of the `NEXTLONG.B` result at every sign of the bound; for a negative bound this rests
on the spec's own decision D17 (log 9). -/
def Obligations.NextLongBoundedStaysInRange : Prop :=
  ∀ (bound : Word) (r : Word),
    (0 < bound.toInt →
      0 ≤ (filterLongB bound r).toInt ∧ (filterLongB bound r).toInt ≤ bound.toInt - 1) ∧
    (bound.toInt = 0 → (filterLongB bound r).toInt = 0) ∧
    (bound.toInt < 0 →
      bound.toInt ≤ (filterLongB bound r).toInt ∧ (filterLongB bound r).toInt ≤ 0 ∧
      ((filterLongB bound r).toInt = 0 ↔ r = 0)) ∧
    (bound.toInt = -1 → r ≠ 0 → (filterLongB bound r).toInt = -1)

/-- R120: the split into four 32-by-32-bit products computes the `NEXTLONG.B` result, for a bound of
either sign (a negative one: D17; log 9). -/
def Obligations.FourProductsGiveTheHighWord : Prop :=
  ∀ (bound r : Word) (ul uh bl bh p0 p1 p2 p3 m : Int),
    ul = (r.toNat % 2 ^ 32 : Nat) → uh = (r.toNat / 2 ^ 32 : Nat) →
    bl = (bound.toNat % 2 ^ 32 : Nat) → bh = (bound.extractLsb' 32 32).toInt →
    p0 = ul * bl → p1 = uh * bl → p2 = ul * bh → p3 = uh * bh → m = p1 + p2 + p0 / 2 ^ 32 →
    (filterLongB bound r).toInt = p3 + m / 2 ^ 32

/-- R132: the patterns of R131 and R133 stand for exactly `m / 2^53` and `m / 2^24`: a normal number
`(1 + fraction / 2^52) * 2^(exponent - 1023)`, sign 0, below 1 (the equations are multiplied out), and
likewise in binary32. -/
def Obligations.FractionsAreExact : Prop :=
  (∀ r : Word, r.toNat % 2 ^ 53 ≠ 0 →
    (filterDouble r).msb = false ∧
    970 ≤ ((filterDouble r).extractLsb' 52 11).toNat ∧
    ((filterDouble r).extractLsb' 52 11).toNat ≤ 1022 ∧
    (2 ^ 52 + ((filterDouble r).extractLsb' 0 52).toNat) *
      2 ^ ((filterDouble r).extractLsb' 52 11).toNat * 2 ^ 53 =
      r.toNat % 2 ^ 53 * 2 ^ 1023 * 2 ^ 52) ∧
  (∀ r : Word, r.toNat % 2 ^ 24 ≠ 0 →
    (filterFloat r).msb = false ∧
    103 ≤ ((filterFloat r).extractLsb' 23 8).toNat ∧
    ((filterFloat r).extractLsb' 23 8).toNat ≤ 126 ∧
    (2 ^ 23 + ((filterFloat r).extractLsb' 0 23).toNat) *
      2 ^ ((filterFloat r).extractLsb' 23 8).toNat * 2 ^ 24 =
      r.toNat % 2 ^ 24 * 2 ^ 127 * 2 ^ 23)

/-! ## The machine -/

/-- R102: a requester's turn in `DONE` takes the response `{ST, RES}`; the port is `IDLE` and its context
holds nothing (log 4); its buffer, what it presents, the words and every other port are as they were. -/
def Obligations.RespondHandsTheResponseOver : Prop :=
  ∀ (s : State) (p : Nat) (q : Port), s.ports[p]? = some q → q.ctx.ph = .done →
    takeTurn (.requester p) s = .next
      { s with
        active := p
        ports := s.ports.set p
          { ctx := Context.idle, buf := q.buf, pending := q.pending
            received := q.received ++ [⟨q.ctx.st, q.ctx.res⟩] } }

/-- R180, R181, R33: RESET, in any state: the words hold no value and `SEEDED` is 0; every port is `IDLE`
and has no response to give; no buffer, no entropy value and nothing of a requester's changes. -/
def Obligations.ResetDropsEverythingButTheBuffers : Prop :=
  ∀ s : State, ∃ s', takeTurn .reset s = .next s' ∧ s'.words = none ∧ s'.seeded = false ∧
    s'.ent = s.ent ∧ s'.ports.length = s.ports.length ∧
    ∀ (p : Nat) (q : Port), s.ports[p]? = some q →
      ∃ q', s'.ports[p]? = some q' ∧ q'.ctx.ph = .idle ∧ q'.buf = q.buf ∧ q'.received = q.received ∧
        q'.pending = q.pending

/-- The invariant holds of a reset block of any number of ports, and of the model's reset state (two
ports, log 3). -/
def Obligations.ResetHasTheInvariant : Prop :=
  (∀ n, 1 ≤ n → (State.resetWith n).Inv) ∧ State.reset.Inv

/-- Every step keeps the invariant: the state words are never both zero (R21), a port in `FETCH`, `HELD`
or `READ` has a command of that class in flight and the block is seeded (R97, R144), `NEXTBYTES` has bytes
left below its length (R40), a refusal carries no data (R69), buffers keep their canonical form. One clause
is the model's choice: an idle port's context is the canonical empty one (log 4). -/
def Obligations.StepKeepsTheInvariant : Prop :=
  ∀ s s' : State, s.Inv → step s = .next s' → s'.Inv

/-- R160: the block has no fault state: a step from a state with the invariant answers a next state. -/
def Obligations.InvariantMeansNoStop : Prop := ∀ s : State, s.Inv → ∃ s', step s = .next s'

/-- R22, R23, R194: what changes the state words is RESET, the ACCEPT of a seed-class command while
`SEEDED = 0`, or a successful COMMIT, which replaces the pair by its `next`. -/
def Obligations.OnlySeedCommitAndResetWriteTheWords : Prop :=
  ∀ (t : Turn) (s s' : State), takeTurn t s = .next s' → s'.words ≠ s.words →
    t = .reset ∨
    (∃ p q c cs, t = .requester p ∧ s.ports[p]? = some q ∧ q.ctx.ph = .idle ∧ q.pending = c :: cs ∧
      classOf (opField c) = .seed ∧ s.words = none ∧ s'.words ≠ none) ∨
    (∃ p g, drawOfTurn t s = some (p, raw g) ∧ s.words = some g ∧ s'.words = some (next g))

/-- R27, R175, R58: a step of one port, whether its sequencer's or its requester's (which accepts, takes a
response, presents a command or stores into its buffer), leaves every other port, its context, its buffer and
its responses, and the inputs of the block as they were. -/
def Obligations.PortsArePrivate : Prop :=
  ∀ (t : Turn) (p k : Nat) (s s' : State),
    (t = .requester p ∨ t = .sequencer p ∨ (∃ c, t = .present p c) ∨ ∃ i v, t = .store p i v) → k ≠ p →
    takeTurn t s = .next s' →
    s'.ports[k]? = s.ports[k]? ∧ s'.ports.length = s.ports.length ∧ s'.ent = s.ent ∧
      s'.schedule = s.schedule

/-- R40, R194: a byte of a buffer changes only by a successful COMMIT of a `NEXTBYTES` of that port, and
then only at an index below `CNT` and below the command's length; or by a store of the port's own requester
at that index, which while a `NEXTBYTES` is in flight is not an index from `CNT` up to the length (R189;
that a store elsewhere lands at once is the model's choice, log 12). -/
def Obligations.OnlyNextBytesWritesItsBuffer : Prop :=
  ∀ (t : Turn) (k idx : Nat) (s s' : State) (q q' : Port), s.Inv →
    takeTurn t s = .next s' →
    s.ports[k]? = some q → s'.ports[k]? = some q' → q'.buf.read idx ≠ q.buf.read idx →
    (t = .sequencer k ∧ q.ctx.ph = .held ∧ q.ctx.op = 0x12 ∧ s.words = some q.ctx.snapshot ∧
      idx < q.ctx.cnt.toNat ∧ idx < (q.ctx.a.setWidth 32).toNat) ∨
    (∃ i v, t = .store k i v ∧ idx = i.toNat ∧ q'.buf.read idx = some v ∧
      ¬(q.ctx.op = 0x12 ∧ q.ctx.cnt.toNat ≤ idx ∧ idx < (q.ctx.a.setWidth 32).toNat ∧
        (q.ctx.ph = .fetch ∨ q.ctx.ph = .held ∨ q.ctx.ph = .done ∧ q.ctx.st = .ok)))

/-- R50, R51: in every run without a reset of a seeded block of any number of ports under any schedule,
the k-th draw returns `raw` of the k-th state of the sequence, no position twice and none left out, and the
state is left at the position after the last. -/
def Obligations.DrawsFollowTheSequence : Prop :=
  ∀ (ts : List Turn) (s s' : State) (g : Snapshot), Turn.reset ∉ ts → s.words = some g →
    run ts s = .next s' →
    (drawsOf ts s).map Prod.snd =
      (List.range (drawsOf ts s).length).map (fun k => raw (nextN k g)) ∧
    s'.words = some (nextN (drawsOf ts s).length g)

/-- R149, R50: two instances with equal state words give equal sequences from then on, whatever their
ports, buffers and schedules are, and are equal again after as many draws. -/
def Obligations.EqualEnginesGiveEqualSequences : Prop :=
  ∀ (ts us : List Turn) (s s' t t' : State), Turn.reset ∉ ts → Turn.reset ∉ us → SameEngine s t →
    run ts s = .next s' → run us t = .next t' →
    (drawsOf ts s).length = (drawsOf us t).length →
    (drawsOf ts s).map Prod.snd = (drawsOf us t).map Prod.snd ∧ SameEngine s' t'

/-- R148: `COPY` on one seeded instance and then the `SEED2` of its data on an instance that has been reset
makes the two instances equal; the source instance keeps its words. -/
def Obligations.CloneMakesAnEqualEngine : Prop :=
  ∀ (e1 e1' e2 : State) (q1 q2 : Port) (g : Snapshot) (p1 p2 : Nat) (cs : List CmdWord),
    e1.Inv → e1.words = some g →
    e1.ports[p1]? = some q1 → q1.ctx.ph = .read → q1.ctx.op = 0x06 →
    takeTurn (.sequencer p1) e1 = .next e1' →
    e2.words = none → e2.ports[p2]? = some q2 → q2.ctx.ph = .idle →
    ∃ q1', e1'.ports[p1]? = some q1' ∧ q1'.ctx.ph = .done ∧ q1'.ctx.st = .ok ∧
      (q2.pending = cloneCommand q1'.ctx.res :: cs →
        ∃ e2', takeTurn (.requester p2) e2 = .next e2' ∧ SameEngine e1' e2' ∧ e2'.words = some g)

/-- R142, R141, R189: (1) a `NEXTBYTES` of length `LEN`, its port the only one that steps, ends after
`ceil(LEN/8)` draws, two turns of its sequencer each, answered `OK`; byte `idx` of the buffer is then byte
`t mod 8` of draw `t / 8` with `t = LEN - 1 - idx`; no byte at `LEN` or above changes. (2) Under any schedule
without a reset, whatever the other ports do and whatever the requester stores into its buffer or presents
meanwhile, up to where the command is answered and its requester has taken no response since (its turns before
that pass): it is answered `OK`, it has made `ceil(LEN/8)` draws, and after the RESPOND that takes the response
every byte below `LEN` is that of its draws by the same rule. -/
def Obligations.NextBytesFillsTheBuffer : Prop :=
  (∀ (s : State) (p : Nat) (q : Port) (g : Snapshot), s.ports[p]? = some q → s.words = some g →
    q.ctx.ph = .fetch → q.ctx.op = 0x12 → q.ctx.cnt = q.ctx.a.setWidth 32 → q.ctx.cnt ≠ 0 →
    ∃ s' q', run (List.replicate (2 * ((q.ctx.cnt.toNat + 7) / 8)) (.sequencer p)) s = .next s' ∧
      s'.ports[p]? = some q' ∧ q'.ctx.ph = .done ∧ q'.ctx.st = .ok ∧ q'.ctx.res = 0 ∧
      s'.words = some (nextN ((q.ctx.cnt.toNat + 7) / 8) g) ∧
      (∀ idx < q.ctx.cnt.toNat,
        q'.buf.read idx = some
          ((raw (nextN ((q.ctx.cnt.toNat - 1 - idx) / 8) g)).extractLsb'
            (8 * ((q.ctx.cnt.toNat - 1 - idx) % 8)) 8)) ∧
      ∀ idx, q.ctx.cnt.toNat ≤ idx → q'.buf.read idx = q.buf.read idx) ∧
  ∀ (ts : List Turn) (s s' : State) (p : Nat) (q q' : Port) (draws : List Word), s.Inv →
    s.ports[p]? = some q → q.ctx.ph = .fetch → q.ctx.op = 0x12 → q.ctx.cnt = q.ctx.a.setWidth 32 →
    Turn.reset ∉ ts → run ts s = .next s' → s'.ports[p]? = some q' → q'.received = q.received →
    q'.ctx.ph = .done → draws = ((drawsOf ts s).filter fun d => d.1 = p).map Prod.snd →
    draws.length = (q.ctx.cnt.toNat + 7) / 8 ∧
    ∃ s'' q'', takeTurn (.requester p) s' = .next s'' ∧ s''.ports[p]? = some q'' ∧
      q''.received = q.received ++ [⟨.ok, 0⟩] ∧
      ∀ idx < q.ctx.cnt.toNat, ∃ r, draws[(q.ctx.cnt.toNat - 1 - idx) / 8]? = some r ∧
        q''.buf.read idx = some (r.extractLsb' (8 * ((q.ctx.cnt.toNat - 1 - idx) % 8)) 8)

/-- R100, first half: for every execution of the full machine there is an execution of the simpler machine,
in which each draw is one atomic ADVANCE, that ends in the same state: the same words, responses and
buffers, the snapshots aside. -/
def Obligations.FullMachineRefinesTheSimple : Prop :=
  ∀ (ts : List Turn) (s s' : State), s.Inv → run ts s = .next s' →
    ∃ us, simpleRun us s.collapse = .next s'.collapse

/-- R100, second half: every execution of the simpler machine is one of the full machine (SNAPSHOT
immediately followed by COMMIT). -/
def Obligations.SimpleMachineIsAFullOne : Prop :=
  ∀ (us : List Turn) (s t : State), s.Inv → (∀ q ∈ s.ports, q.ctx.ph ≠ .held) →
    simpleRun us s.collapse = .next t → ∃ ts s', run ts s = .next s' ∧ s'.collapse = t

/-- R101 (1), R55: once a port has taken its snapshot, its COMMIT succeeds unless another port's COMMIT
succeeds in between: after any turns of others that make no draw, no reset among them, it returns the raw
value of the state it read and the state advances. -/
def Obligations.UndisturbedCommitSucceeds : Prop :=
  ∀ (ts : List Turn) (s s1 s2 : State) (p : Nat) (q : Port) (g : Snapshot),
    s.ports[p]? = some q → q.ctx.ph = .fetch → s.words = some g →
    takeTurn (.sequencer p) s = .next s1 → Turn.reset ∉ ts → Turn.sequencer p ∉ ts →
    drawsOf ts s1 = [] → run ts s1 = .next s2 →
    drawOfTurn (.sequencer p) s2 = some (p, raw g) ∧
    ∃ s3, takeTurn (.sequencer p) s2 = .next s3 ∧ s3.words = some (next g)

/-- R101 (4) and (2), R188. First: if the schedule is fair to the sequencer of a port, has no reset, and from
some point on no other port draws, then a draw-class command in flight on that port ends: the port comes to
`DONE`. Second: while another port keeps drawing it need not end, and no bound exists. From every state in which
port `p` is in `FETCH` and port `k` is idle with nothing presented, there is a schedule without a reset, fair to
the sequencers of both, under which port `p` never leaves `FETCH` and `HELD`, its COMMIT fails again and again
without end, and port `k` draws again and again without end. (Presented commands are turns: log 1.) -/
def Obligations.FairDrawEndsOnceOthersStopElseMayStarve : Prop :=
  (∀ (sched : Nat → Turn) (s : State) (p : Nat) (q : Port), s.Inv → s.ports[p]? = some q →
    (q.ctx.ph = .fetch ∨ q.ctx.ph = .held) → SequencerFair sched p → (∀ n, sched n ≠ .reset) →
    (∃ N, ∀ n, N ≤ n → ∀ u, runUpTo sched n s = .next u → ¬OtherDraws p (sched n) u) →
    ∃ n u q', runUpTo sched n s = .next u ∧ u.ports[p]? = some q' ∧ q'.ctx.ph = .done) ∧
  ∀ (s : State) (p k : Nat) (q r : Port), s.Inv → p ≠ k → s.ports[p]? = some q → q.ctx.ph = .fetch →
    s.ports[k]? = some r → r.ctx.ph = .idle → r.pending = [] →
    ∃ sched : Nat → Turn, (∀ n, sched n ≠ .reset) ∧ SequencerFair sched p ∧ SequencerFair sched k ∧
      (∀ n, ∃ u q', runUpTo sched n s = .next u ∧ u.ports[p]? = some q' ∧
        (q'.ctx.ph = .fetch ∨ q'.ctx.ph = .held)) ∧
      (∀ n, ∃ m u, n ≤ m ∧ runUpTo sched m s = .next u ∧ FailedCommit p (sched m) u) ∧
      ∀ n, ∃ m u w, n ≤ m ∧ runUpTo sched m s = .next u ∧ drawOfTurn (sched m) u = some (k, w)
end

