-- ==== Sys2Proof/Laws/Encoding.lean ====
section
/-! SUPPORT. The fields of a packed command word are the ones packed, and packing the fields of a word
gives the word. -/

namespace Sys2Proof.Machine

@[simp] theorem opField_packCmd (op : BitVec 5) (a b : Word) : opField (packCmd op a b) = op := by
  apply BitVec.eq_of_getLsbD_eq
  intro k hk
  simp only [opField, packCmd, BitVec.getLsbD_extractLsb', BitVec.getLsbD_append, hk]
  have h1 : ¬ 128 + k < 64 := by omega
  have h2 : ¬ 128 + k - 64 < 64 := by omega
  have h3 : 128 + k - 64 - 64 = k := by omega
  simp [h1, h2, h3]

@[simp] theorem aField_packCmd (op : BitVec 5) (a b : Word) : aField (packCmd op a b) = a := by
  apply BitVec.eq_of_getLsbD_eq
  intro k hk
  simp only [aField, packCmd, BitVec.getLsbD_extractLsb', BitVec.getLsbD_append, hk]
  have h1 : ¬ 64 + k < 64 := by omega
  have h2 : 64 + k - 64 < 64 := by omega
  have h3 : 64 + k - 64 = k := by omega
  simp [h3, hk]

@[simp] theorem bField_packCmd (op : BitVec 5) (a b : Word) : bField (packCmd op a b) = b := by
  apply BitVec.eq_of_getLsbD_eq
  intro k hk
  simp only [bField, packCmd, BitVec.getLsbD_extractLsb', BitVec.getLsbD_append, hk]
  simp [hk]

/-- A command word is its three fields. -/
theorem packCmd_fields (c : CmdWord) : packCmd (opField c) (aField c) (bField c) = c := by
  apply BitVec.eq_of_getLsbD_eq
  intro k hk
  simp only [opField, aField, bField, packCmd, BitVec.getLsbD_extractLsb', BitVec.getLsbD_append]
  by_cases h1 : k < 64
  · simp [h1]
  · by_cases h2 : k - 64 < 64
    · have h3 : 64 + (k - 64) = k := by omega
      simp [h1, h2, h3]
    · have h3 : 128 + (k - 64 - 64) = k := by omega
      have h4 : k - 64 - 64 < 5 := by omega
      simp [h1, h2, h3, h4]

/-- The decoder on a packed word sees the fields packed. -/
theorem decode_packCmd (op : BitVec 5) (a b : Word) : decode (packCmd op a b) = decodeFields op a b := by
  simp [decode]

end Sys2Proof.Machine
end

