-- ==== Sys2Proof/Laws/Memory.lean ====
section
/-! SUPPORT. The laws of the byte buffer: read after write, and that every operation keeps the canonical
form. -/

namespace Sys2Proof.Machine

/-- A read at the index just written gives the byte written. -/
@[simp] theorem Memory.read_write_same (m : Memory) (i : Nat) (v : Byte) :
    Memory.read (Memory.write m i v) i = some v := by
  induction m with
  | nil => simp [Memory.write, Memory.read]
  | cons c m ih =>
    obtain ⟨k, w⟩ := c
    simp only [Memory.write]
    split
    · simp [Memory.read]
    · split
      · simp [Memory.read]
      · simp [Memory.read, *]

/-- A read at any other index gives what it gave. -/
theorem Memory.read_write_other (m : Memory) {i k : Nat} (v : Byte) (h : k ≠ i) :
    Memory.read (Memory.write m i v) k = Memory.read m k := by
  induction m with
  | nil => simp [Memory.write, Memory.read, h]
  | cons c m ih =>
    obtain ⟨j, w⟩ := c
    simp only [Memory.write]
    split
    · simp [Memory.read, h]
    · split
      · subst_vars; simp [Memory.read, h]
      · simp [Memory.read, ih]

/-- The indices of a buffer after a write: the old ones and the new one. -/
theorem Memory.mem_write {m : Memory} {i : Nat} {v : Byte} {c : Host.Cell}
    (h : c ∈ Memory.write m i v) : c = (i, v) ∨ c ∈ m := by
  induction m with
  | nil => simpa [Memory.write] using h
  | cons d m ih =>
    obtain ⟨k, w⟩ := d
    simp only [Memory.write] at h
    split at h
    · simpa using h
    · split at h
      · rcases List.mem_cons.mp h with h | h
        · exact .inl h
        · exact .inr (List.mem_cons_of_mem _ h)
      · rcases List.mem_cons.mp h with h | h
        · exact .inr (h ▸ List.mem_cons_self)
        · exact (ih h).imp_right (List.mem_cons_of_mem _)

/-- A write at a 32-bit index keeps the canonical form. -/
theorem Memory.write_wf {m : Memory} (h : m.wf) {i : Nat} (hi : i < 2 ^ 32) (v : Byte) :
    (Memory.write m i v).wf := by
  refine ⟨?_, fun c hc => ?_⟩
  · induction m with
    | nil => simp [Memory.write]
    | cons d m ih =>
      obtain ⟨k, w⟩ := d
      obtain ⟨hs, hb⟩ := h
      obtain ⟨hk, hs'⟩ := List.pairwise_cons.mp hs
      simp only [Memory.write]
      split
      · rename_i hlt
        refine List.pairwise_cons.mpr ⟨fun c hc => ?_, hs⟩
        rcases List.mem_cons.mp hc with rfl | hc
        · exact hlt
        · exact lt_trans hlt (hk c hc)
      · split
        · rename_i heq
          exact List.pairwise_cons.mpr ⟨fun c hc => heq ▸ hk c hc, hs'⟩
        · rename_i hnlt hne
          refine List.pairwise_cons.mpr
            ⟨fun c hc => ?_, ih ⟨hs', fun c hc => hb c (List.mem_cons_of_mem _ hc)⟩⟩
          rcases Memory.mem_write hc with rfl | hc
          · show k < i; omega
          · exact hk c hc
  · rcases Memory.mem_write hc with rfl | hc
    · exact hi
    · exact h.2 c hc

/-- A list of writes at 32-bit indices keeps the canonical form. -/
theorem Memory.writeAll_wf {m : Memory} (h : m.wf) (ws : List Host.Cell)
    (hws : ∀ c ∈ ws, c.1 < 2 ^ 32) : (Memory.writeAll m ws).wf := by
  induction ws generalizing m with
  | nil => exact h
  | cons c ws ih =>
    obtain ⟨i, v⟩ := c
    exact ih (Memory.write_wf h (hws _ List.mem_cons_self) v)
      fun c hc => hws c (List.mem_cons_of_mem _ hc)

/-- An index no write of the list names reads as before. -/
theorem Memory.read_writeAll_other (m : Memory) (ws : List Host.Cell) {k : Nat}
    (h : ∀ c ∈ ws, c.1 ≠ k) : Memory.read (Memory.writeAll m ws) k = Memory.read m k := by
  induction ws generalizing m with
  | nil => rfl
  | cons c ws ih =>
    obtain ⟨i, v⟩ := c
    rw [Memory.writeAll, ih _ fun c hc => h c (List.mem_cons_of_mem _ hc),
      Memory.read_write_other _ _ (Ne.symm (h _ List.mem_cons_self))]

/-- The indices one draw writes are the ones just below the count. -/
theorem byteWrites_index {cnt : Nat} {r : Word} {c : Host.Cell} (h : c ∈ byteWrites cnt r) :
    cnt - drawBytes cnt ≤ c.1 ∧ c.1 < cnt := by
  obtain ⟨j, hj, rfl⟩ := List.mem_map.mp h
  have hj := List.mem_range.mp hj
  unfold drawBytes at *
  show cnt - min cnt 8 ≤ cnt - 1 - j ∧ cnt - 1 - j < cnt
  omega

/-- The byte writes of one draw keep the canonical form. -/
theorem Memory.writeAll_byteWrites_wf {m : Memory} (h : m.wf) (cnt : BitVec 32) (r : Word) :
    (Memory.writeAll m (byteWrites cnt.toNat r)).wf :=
  Memory.writeAll_wf h _ fun _ hc => lt_trans (byteWrites_index hc).2 cnt.isLt

/-- A requester's store, read back at any index: it changes the index it names and no other, and not that
one where the `NEXTBYTES` in flight has written already (log 12). -/
theorem Port.store_read (i : BitVec 32) (v : Byte) (q : Port) (k : Nat) :
    Memory.read (q.store i v).buf k =
      if k = i.toNat ∧ q.ctx.written k = false then some v else Memory.read q.buf k := by
  unfold Port.store
  by_cases hk : k = i.toNat
  · subst hk
    cases h : q.ctx.written i.toNat <;> simp
  · split
    · simp [hk]
    · simp [hk, Memory.read_write_other _ _ hk]

/-- A requester's store keeps the canonical form. -/
theorem Port.store_wf {q : Port} (h : q.buf.wf) (i : BitVec 32) (v : Byte) :
    Memory.wf (q.store i v).buf := by
  unfold Port.store
  split
  · exact h
  · exact Memory.write_wf h i.isLt v

end Sys2Proof.Machine
end

