-- ==== Sys2Proof/Laws/Mix.lean ====
section
/-! SUPPORT. The sequence never stands still: `next` moves every pair that is not both zero
(10_state.md R36, 41_advance.md R91). Over the two-element field `next` is linear; a pair it leaves alone is
one whose exclusive or `stay` sends to zero, and `stay` has the left inverse `undoStay`. -/

namespace Sys2Proof.Machine

/-- What must be zero of `x = s0 ^^^ s1` for `next` to leave the pair alone. -/
def stay (x : Word) : Word := rotl x 55 ^^^ rotl x 27 ^^^ (x <<< 14) ^^^ rotl x 36

/-- What the left inverse answers for each single bit, from bit 0 up. -/
def undoRows0 : List Word :=
  [0x828EEB61260291A7, 0x1944976330A5146C, 0x32892EC6614A28D8, 0x65125D8CC29451B0,
   0x48AA5078A32A32C7, 0x13DA4B906056F429, 0xA53A7C41E6AF79F5, 0x562DB922B1FEC4C8,
   0xAC5B724563FD8990, 0x44EFA52BBB5B2402, 0x0B51A13650B4D9A3, 0x16A3426CA169B346,
   0xAFC86FB864D1F72B, 0xC14775B0930148D3, 0x9ED7AAC05AA2A684, 0x21F61421C9E57A2A]

/-- Bits 16 to 31. -/
def undoRows1 : List Word :=
  [0xC162C322B5C865F3, 0x9E9CC7E41730FCC4, 0xA3EE250874C35F0D, 0x5B850BB195268938,
   0xB70A17632A4D1270, 0x724D6F67283A13C2, 0xE49ADECE50742784, 0xD56CFC3DDC48782A,
   0x340E52BBE23256D1, 0xEA924E16E2663C05, 0xC97DDD8CB86C4F28, 0x0C2C11D92A7A38D5,
   0x185823B254F471AA, 0x30B04764A9E8E354, 0x61608EC953D1C6A8, 0xC2C11D92A7A38D50]

/-- Bits 32 to 47. -/
def undoRows2 : List Word :=
  [0x1B5591E515E5BC25, 0x36AB23CA2BCB784A, 0xEFD8ACF571946133, 0x4166F32AB98A64E3,
   0x00430D3455165861, 0x8208F1098C2E2165, 0x9AC648D342FEE44F, 0x29D5D007F95DFFBC,
   0x53ABA00FF2BBFF78, 0x25D9AB7EC3756F57, 0x4BB356FD86EADEAE, 0x15E8469A2BD72CFB,
   0x2BD08D3457AE59F6, 0x57A11A68AF5CB3EC, 0xAF4234D15EB967D8, 0x42DD2803C1D2F892]

/-- Bits 48 to 63. -/
def undoRows3 : List Word :=
  [0x85BA500783A5F124, 0x172DE1AE7BEBD56A, 0x2E5BC35CF7D7AAD4, 0xDE396DD8C9ADC40F,
   0x22A57171C9F92E9B, 0x454AE2E393F25D36, 0x081B2EA601E62BCB, 0x92B8B62D25CEC631,
   0xBBA6C69A113F2AE7, 0x6B14CC955EDE62EC, 0xD629992ABDBCC5D8, 0x3284989521DB2D35,
   0x6509312A43B65A6A, 0xCA126254876CB4D4, 0x887D850872795E8A, 0x8E2CA0D0BE501B91]

/-- The rows of the set bits of `y` from bit `i` up, joined by exclusive or. -/
def joinRows (y : Word) : Nat → List Word → Word
  | _, [] => 0
  | i, v :: vs => (if y.getLsbD i then v else 0) ^^^ joinRows y (i + 1) vs

/-- The left inverse of `stay`. -/
def undoStay (y : Word) : Word :=
  joinRows y 0 (undoRows0 ++ (undoRows1 ++ (undoRows2 ++ undoRows3)))

theorem xor_xor_xor_comm (a b c d : Word) : (a ^^^ b) ^^^ (c ^^^ d) = (a ^^^ c) ^^^ (b ^^^ d) := by
  rw [BitVec.xor_assoc, ← BitVec.xor_assoc b, BitVec.xor_comm b, BitVec.xor_assoc c, BitVec.xor_assoc]

theorem rotl_xor (x y : Word) (k : Nat) : rotl (x ^^^ y) k = rotl x k ^^^ rotl y k := by
  unfold rotl
  apply BitVec.eq_of_getLsbD_eq
  intro i hi
  by_cases h : i < k <;>
    simp only [BitVec.getLsbD_or, BitVec.getLsbD_shiftLeft, BitVec.getLsbD_ushiftRight,
      BitVec.getLsbD_xor, hi, h] <;>
    simp
  have : x.getLsbD (64 - k + i) = false := BitVec.getLsbD_of_ge x _ (by omega)
  have : y.getLsbD (64 - k + i) = false := BitVec.getLsbD_of_ge y _ (by omega)
  simp [*]

theorem stay_xor (x y : Word) : stay (x ^^^ y) = stay x ^^^ stay y := by
  simp only [stay, rotl_xor, BitVec.shiftLeft_xor_distrib]
  rw [xor_xor_xor_comm (rotl x 55), xor_xor_xor_comm (rotl x 55 ^^^ rotl x 27),
    xor_xor_xor_comm (rotl x 55 ^^^ rotl x 27 ^^^ x <<< 14)]

theorem joinRows_xor (x y : Word) (vs : List Word) (i : Nat) :
    joinRows (x ^^^ y) i vs = joinRows x i vs ^^^ joinRows y i vs := by
  induction vs generalizing i with
  | nil => simp [joinRows]
  | cons v vs ih =>
    rw [joinRows, joinRows, joinRows, ih, xor_xor_xor_comm, BitVec.getLsbD_xor]
    cases x.getLsbD i <;> cases y.getLsbD i <;> simp

/-- Two linear functions that agree on every single bit agree on every word. -/
theorem linear_ext {f g : Word → Word} (hf : ∀ x y, f (x ^^^ y) = f x ^^^ f y)
    (hg : ∀ x y, g (x ^^^ y) = g x ^^^ g y)
    (hb : ∀ i < 64, f (BitVec.twoPow 64 i) = g (BitVec.twoPow 64 i)) (x : Word) : f x = g x := by
  have f0 : f 0#64 = 0#64 := by simpa using hf 0#64 0#64
  have g0 : g 0#64 = 0#64 := by simpa using hg 0#64 0#64
  have low : ∀ n ≤ 64, f ((x.setWidth n).setWidth 64) = g ((x.setWidth n).setWidth 64) := by
    intro n
    induction n with
    | zero =>
      intro _
      rw [show (x.setWidth 0).setWidth 64 = 0#64 from BitVec.eq_of_getLsbD_eq (by simp), f0, g0]
    | succ n ih =>
      intro hn
      have e : (x.setWidth (n + 1)).setWidth 64 =
          (x.setWidth n).setWidth 64 ^^^ (if x.getLsbD n then BitVec.twoPow 64 n else 0#64) := by
        apply BitVec.eq_of_getLsbD_eq
        intro i hi
        rw [BitVec.getLsbD_xor]
        simp only [BitVec.getLsbD_setWidth, hi, decide_true, Bool.true_and, apply_ite (BitVec.getLsbD · i),
          BitVec.getLsbD_twoPow, BitVec.getLsbD_zero]
        rcases lt_trichotomy i n with h | rfl | h
        · simp [h, Nat.lt_succ_of_lt h, Nat.ne_of_gt h]
        · cases x.getLsbD i <;> simp [hi]
        · simp [Nat.not_lt.mpr (Nat.le_of_lt h), Nat.not_lt.mpr (Nat.succ_le_of_lt h), Nat.ne_of_lt h]
      rw [e, hf, hg, ih (by omega)]
      split
      · rw [hb n (by omega)]
      · rw [f0, g0]
  simpa using low 64 le_rfl

/-- `stay` sends no two words to the same one. -/
theorem undoStay_stay (x : Word) : undoStay (stay x) = x :=
  linear_ext (f := fun x => undoStay (stay x)) (g := fun x => x)
    (fun x y => by simp only [undoStay, stay_xor, joinRows_xor]) (fun _ _ => rfl) (by decide +kernel) x

/-- Two rotations are one (by the amounts `next` needs). -/
theorem rotl_rotl (x : Word) : rotl (rotl x 36) 55 = rotl x 27 :=
  linear_ext (f := fun x => rotl (rotl x 36) 55) (g := fun x => rotl x 27) (fun x y => by simp only [rotl_xor])
    (fun x y => rotl_xor x y 27) (by decide +kernel) x

/-- `next` moves every pair that is not both zero. -/
theorem next_ne_self {g : Snapshot} (h : ¬(g.s0 = 0 ∧ g.s1 = 0)) : next g ≠ g := by
  intro e
  obtain ⟨a, b⟩ := g
  simp only [next, Snapshot.mk.injEq] at e
  obtain ⟨x, rfl⟩ : ∃ x, b = x ^^^ a := ⟨b ^^^ a, by simp⟩
  rw [show x ^^^ a ^^^ a = x by simp] at e
  obtain ⟨e0, e1⟩ := e
  obtain rfl : a = x ^^^ rotl x 36 := by simp [e1]
  rw [rotl_xor, rotl_rotl] at e0
  have hs : stay x = 0 := by
    rw [BitVec.xor_assoc, BitVec.xor_comm x (x <<< 14), ← BitVec.xor_assoc] at e0
    have e : stay x = (rotl x 55 ^^^ rotl x 27 ^^^ x <<< 14 ^^^ x) ^^^ (x ^^^ rotl x 36) := by
      rw [BitVec.xor_assoc _ x, ← BitVec.xor_assoc x, BitVec.xor_self, BitVec.zero_xor]
      rfl
    rw [e, e0]
    exact BitVec.xor_self
  have := undoStay_stay x
  rw [hs] at this
  subst this
  exact h (by decide)

end Sys2Proof.Machine
end

