-- ==== Sys2Proof/Laws/State.lean ====
section
/-! SUPPORT. One lemma per field per update, each true by definition, so that no later proof unfolds a
record update; and the lemmas of the lookup of a port. -/

namespace Sys2Proof.Machine

@[simp] theorem State.putPort_words (s : State) (q : Port) : (s.putPort q).words = s.words := rfl
@[simp] theorem State.putPort_ports (s : State) (q : Port) : (s.putPort q).ports = s.ports.set s.active q := rfl
@[simp] theorem State.putPort_ent (s : State) (q : Port) : (s.putPort q).ent = s.ent := rfl
@[simp] theorem State.putPort_active (s : State) (q : Port) : (s.putPort q).active = s.active := rfl
@[simp] theorem State.putPort_schedule (s : State) (q : Port) : (s.putPort q).schedule = s.schedule := rfl

@[simp] theorem State.putWords_words (s : State) (g : Snapshot) : (s.putWords g).words = some g := rfl
@[simp] theorem State.putWords_ports (s : State) (g : Snapshot) : (s.putWords g).ports = s.ports := rfl
@[simp] theorem State.putWords_ent (s : State) (g : Snapshot) : (s.putWords g).ent = s.ent := rfl
@[simp] theorem State.putWords_active (s : State) (g : Snapshot) : (s.putWords g).active = s.active := rfl
@[simp] theorem State.putWords_schedule (s : State) (g : Snapshot) : (s.putWords g).schedule = s.schedule := rfl

@[simp] theorem State.activate_words (s : State) (p : Nat) : (s.activate p).words = s.words := rfl
@[simp] theorem State.activate_ports (s : State) (p : Nat) : (s.activate p).ports = s.ports := rfl
@[simp] theorem State.activate_ent (s : State) (p : Nat) : (s.activate p).ent = s.ent := rfl
@[simp] theorem State.activate_active (s : State) (p : Nat) : (s.activate p).active = p := rfl
@[simp] theorem State.activate_schedule (s : State) (p : Nat) : (s.activate p).schedule = s.schedule := rfl

@[simp] theorem Port.putCtx_ctx (q : Port) (c : Context) : (q.putCtx c).ctx = c := rfl
@[simp] theorem Port.putCtx_buf (q : Port) (c : Context) : (q.putCtx c).buf = q.buf := rfl
@[simp] theorem Port.putCtx_pending (q : Port) (c : Context) : (q.putCtx c).pending = q.pending := rfl
@[simp] theorem Port.putCtx_received (q : Port) (c : Context) : (q.putCtx c).received = q.received := rfl

@[simp] theorem Port.handOver_ctx (q : Port)  : (q.handOver).ctx = Context.idle := rfl
@[simp] theorem Port.handOver_buf (q : Port)  : (q.handOver).buf = q.buf := rfl
@[simp] theorem Port.handOver_pending (q : Port)  : (q.handOver).pending = q.pending := rfl
@[simp] theorem Port.handOver_received (q : Port)  : (q.handOver).received = q.received ++ [⟨q.ctx.st, q.ctx.res⟩] := rfl

@[simp] theorem Port.setPhase_ctx_ph (q : Port) (ph : Phase) : (q.setPhase ph).ctx.ph = ph := rfl
@[simp] theorem Port.setPhase_ctx_op (q : Port) (ph : Phase) : (q.setPhase ph).ctx.op = q.ctx.op := rfl
@[simp] theorem Port.setPhase_ctx_a (q : Port) (ph : Phase) : (q.setPhase ph).ctx.a = q.ctx.a := rfl
@[simp] theorem Port.setPhase_ctx_b (q : Port) (ph : Phase) : (q.setPhase ph).ctx.b = q.ctx.b := rfl
@[simp] theorem Port.setPhase_ctx_t0 (q : Port) (ph : Phase) : (q.setPhase ph).ctx.t0 = q.ctx.t0 := rfl
@[simp] theorem Port.setPhase_ctx_t1 (q : Port) (ph : Phase) : (q.setPhase ph).ctx.t1 = q.ctx.t1 := rfl
@[simp] theorem Port.setPhase_ctx_cnt (q : Port) (ph : Phase) : (q.setPhase ph).ctx.cnt = q.ctx.cnt := rfl
@[simp] theorem Port.setPhase_ctx_res (q : Port) (ph : Phase) : (q.setPhase ph).ctx.res = q.ctx.res := rfl
@[simp] theorem Port.setPhase_ctx_st (q : Port) (ph : Phase) : (q.setPhase ph).ctx.st = q.ctx.st := rfl
@[simp] theorem Port.setPhase_buf (q : Port) (ph : Phase) : (q.setPhase ph).buf = q.buf := rfl
@[simp] theorem Port.setPhase_pending (q : Port) (ph : Phase) : (q.setPhase ph).pending = q.pending := rfl
@[simp] theorem Port.setPhase_received (q : Port) (ph : Phase) : (q.setPhase ph).received = q.received := rfl

@[simp] theorem Port.latch_ctx_ph (q : Port) (c : CmdWord) : (q.latch c).ctx.ph = q.ctx.ph := rfl
@[simp] theorem Port.latch_ctx_op (q : Port) (c : CmdWord) : (q.latch c).ctx.op = opField c := rfl
@[simp] theorem Port.latch_ctx_a (q : Port) (c : CmdWord) : (q.latch c).ctx.a = aField c := rfl
@[simp] theorem Port.latch_ctx_b (q : Port) (c : CmdWord) : (q.latch c).ctx.b = bField c := rfl
@[simp] theorem Port.latch_ctx_t0 (q : Port) (c : CmdWord) : (q.latch c).ctx.t0 = q.ctx.t0 := rfl
@[simp] theorem Port.latch_ctx_t1 (q : Port) (c : CmdWord) : (q.latch c).ctx.t1 = q.ctx.t1 := rfl
@[simp] theorem Port.latch_ctx_cnt (q : Port) (c : CmdWord) : (q.latch c).ctx.cnt = q.ctx.cnt := rfl
@[simp] theorem Port.latch_ctx_res (q : Port) (c : CmdWord) : (q.latch c).ctx.res = q.ctx.res := rfl
@[simp] theorem Port.latch_ctx_st (q : Port) (c : CmdWord) : (q.latch c).ctx.st = q.ctx.st := rfl
@[simp] theorem Port.latch_buf (q : Port) (c : CmdWord) : (q.latch c).buf = q.buf := rfl
@[simp] theorem Port.latch_pending (q : Port) (c : CmdWord) : (q.latch c).pending = q.pending := rfl
@[simp] theorem Port.latch_received (q : Port) (c : CmdWord) : (q.latch c).received = q.received := rfl

@[simp] theorem Port.respond_ctx_ph (q : Port) (st : Status) (d : Data) : (q.respond st d).ctx.ph = .done := rfl
@[simp] theorem Port.respond_ctx_op (q : Port) (st : Status) (d : Data) : (q.respond st d).ctx.op = q.ctx.op := rfl
@[simp] theorem Port.respond_ctx_a (q : Port) (st : Status) (d : Data) : (q.respond st d).ctx.a = q.ctx.a := rfl
@[simp] theorem Port.respond_ctx_b (q : Port) (st : Status) (d : Data) : (q.respond st d).ctx.b = q.ctx.b := rfl
@[simp] theorem Port.respond_ctx_t0 (q : Port) (st : Status) (d : Data) : (q.respond st d).ctx.t0 = q.ctx.t0 := rfl
@[simp] theorem Port.respond_ctx_t1 (q : Port) (st : Status) (d : Data) : (q.respond st d).ctx.t1 = q.ctx.t1 := rfl
@[simp] theorem Port.respond_ctx_cnt (q : Port) (st : Status) (d : Data) : (q.respond st d).ctx.cnt = q.ctx.cnt := rfl
@[simp] theorem Port.respond_ctx_res (q : Port) (st : Status) (d : Data) : (q.respond st d).ctx.res = d := rfl
@[simp] theorem Port.respond_ctx_st (q : Port) (st : Status) (d : Data) : (q.respond st d).ctx.st = st := rfl
@[simp] theorem Port.respond_buf (q : Port) (st : Status) (d : Data) : (q.respond st d).buf = q.buf := rfl
@[simp] theorem Port.respond_pending (q : Port) (st : Status) (d : Data) : (q.respond st d).pending = q.pending := rfl
@[simp] theorem Port.respond_received (q : Port) (st : Status) (d : Data) : (q.respond st d).received = q.received := rfl

@[simp] theorem Port.setCount_ctx_ph (q : Port) (n : BitVec 32) : (q.setCount n).ctx.ph = q.ctx.ph := rfl
@[simp] theorem Port.setCount_ctx_op (q : Port) (n : BitVec 32) : (q.setCount n).ctx.op = q.ctx.op := rfl
@[simp] theorem Port.setCount_ctx_a (q : Port) (n : BitVec 32) : (q.setCount n).ctx.a = q.ctx.a := rfl
@[simp] theorem Port.setCount_ctx_b (q : Port) (n : BitVec 32) : (q.setCount n).ctx.b = q.ctx.b := rfl
@[simp] theorem Port.setCount_ctx_t0 (q : Port) (n : BitVec 32) : (q.setCount n).ctx.t0 = q.ctx.t0 := rfl
@[simp] theorem Port.setCount_ctx_t1 (q : Port) (n : BitVec 32) : (q.setCount n).ctx.t1 = q.ctx.t1 := rfl
@[simp] theorem Port.setCount_ctx_cnt (q : Port) (n : BitVec 32) : (q.setCount n).ctx.cnt = n := rfl
@[simp] theorem Port.setCount_ctx_res (q : Port) (n : BitVec 32) : (q.setCount n).ctx.res = q.ctx.res := rfl
@[simp] theorem Port.setCount_ctx_st (q : Port) (n : BitVec 32) : (q.setCount n).ctx.st = q.ctx.st := rfl
@[simp] theorem Port.setCount_buf (q : Port) (n : BitVec 32) : (q.setCount n).buf = q.buf := rfl
@[simp] theorem Port.setCount_pending (q : Port) (n : BitVec 32) : (q.setCount n).pending = q.pending := rfl
@[simp] theorem Port.setCount_received (q : Port) (n : BitVec 32) : (q.setCount n).received = q.received := rfl

@[simp] theorem Port.holdSnapshot_ctx_ph (q : Port) (g : Snapshot) : (q.holdSnapshot g).ctx.ph = .held := rfl
@[simp] theorem Port.holdSnapshot_ctx_op (q : Port) (g : Snapshot) : (q.holdSnapshot g).ctx.op = q.ctx.op := rfl
@[simp] theorem Port.holdSnapshot_ctx_a (q : Port) (g : Snapshot) : (q.holdSnapshot g).ctx.a = q.ctx.a := rfl
@[simp] theorem Port.holdSnapshot_ctx_b (q : Port) (g : Snapshot) : (q.holdSnapshot g).ctx.b = q.ctx.b := rfl
@[simp] theorem Port.holdSnapshot_ctx_t0 (q : Port) (g : Snapshot) : (q.holdSnapshot g).ctx.t0 = g.s0 := rfl
@[simp] theorem Port.holdSnapshot_ctx_t1 (q : Port) (g : Snapshot) : (q.holdSnapshot g).ctx.t1 = g.s1 := rfl
@[simp] theorem Port.holdSnapshot_ctx_cnt (q : Port) (g : Snapshot) : (q.holdSnapshot g).ctx.cnt = q.ctx.cnt := rfl
@[simp] theorem Port.holdSnapshot_ctx_res (q : Port) (g : Snapshot) : (q.holdSnapshot g).ctx.res = q.ctx.res := rfl
@[simp] theorem Port.holdSnapshot_ctx_st (q : Port) (g : Snapshot) : (q.holdSnapshot g).ctx.st = q.ctx.st := rfl
@[simp] theorem Port.holdSnapshot_buf (q : Port) (g : Snapshot) : (q.holdSnapshot g).buf = q.buf := rfl
@[simp] theorem Port.holdSnapshot_pending (q : Port) (g : Snapshot) : (q.holdSnapshot g).pending = q.pending := rfl
@[simp] theorem Port.holdSnapshot_received (q : Port) (g : Snapshot) : (q.holdSnapshot g).received = q.received := rfl

@[simp] theorem Context.idle_ph : Context.idle.ph = .idle := rfl
@[simp] theorem Context.idle_op : Context.idle.op = 0 := rfl
@[simp] theorem Context.idle_a : Context.idle.a = 0 := rfl
@[simp] theorem Context.idle_b : Context.idle.b = 0 := rfl
@[simp] theorem Context.idle_t0 : Context.idle.t0 = 0 := rfl
@[simp] theorem Context.idle_t1 : Context.idle.t1 = 0 := rfl
@[simp] theorem Context.idle_cnt : Context.idle.cnt = 0 := rfl
@[simp] theorem Context.idle_res : Context.idle.res = 0 := rfl
@[simp] theorem Context.idle_st : Context.idle.st = .ok := rfl

@[simp] theorem resetBlock_words (s : State) : (resetBlock s).words = none := rfl
@[simp] theorem resetBlock_ports (s : State) : (resetBlock s).ports = s.ports.map fun q => q.putCtx Context.idle := rfl
@[simp] theorem resetBlock_ent (s : State) : (resetBlock s).ent = s.ent := rfl
@[simp] theorem resetBlock_active (s : State) : (resetBlock s).active = s.active := rfl
@[simp] theorem resetBlock_schedule (s : State) : (resetBlock s).schedule = s.schedule := rfl

@[simp] theorem driveEntropy_words (v : Word) (s : State) : (driveEntropy v s).words = s.words := rfl
@[simp] theorem driveEntropy_ports (v : Word) (s : State) : (driveEntropy v s).ports = s.ports := rfl
@[simp] theorem driveEntropy_ent (v : Word) (s : State) : (driveEntropy v s).ent = v := rfl
@[simp] theorem driveEntropy_active (v : Word) (s : State) : (driveEntropy v s).active = s.active := rfl
@[simp] theorem driveEntropy_schedule (v : Word) (s : State) : (driveEntropy v s).schedule = s.schedule := rfl

@[simp] theorem Port.store_ctx (i : BitVec 32) (v : Byte) (q : Port) : (q.store i v).ctx = q.ctx := by
  unfold Port.store; split <;> rfl
@[simp] theorem Port.store_pending (i : BitVec 32) (v : Byte) (q : Port) :
    (q.store i v).pending = q.pending := by
  unfold Port.store; split <;> rfl
@[simp] theorem Port.store_received (i : BitVec 32) (v : Byte) (q : Port) :
    (q.store i v).received = q.received := by
  unfold Port.store; split <;> rfl

@[simp] theorem Port.present_ctx (c : CmdWord) (q : Port) : (q.present c).ctx = q.ctx := rfl
@[simp] theorem Port.present_buf (c : CmdWord) (q : Port) : (q.present c).buf = q.buf := rfl
@[simp] theorem Port.present_pending (c : CmdWord) (q : Port) : (q.present c).pending = q.pending ++ [c] := rfl
@[simp] theorem Port.present_received (c : CmdWord) (q : Port) : (q.present c).received = q.received := rfl

@[simp] theorem State.atPort_words (p : Nat) (f : Port → Port) (s : State) : (s.atPort p f).words = s.words := rfl
@[simp] theorem State.atPort_ports (p : Nat) (f : Port → Port) (s : State) :
    (s.atPort p f).ports = s.ports.modify p f := rfl
@[simp] theorem State.atPort_ent (p : Nat) (f : Port → Port) (s : State) : (s.atPort p f).ent = s.ent := rfl
@[simp] theorem State.atPort_active (p : Nat) (f : Port → Port) (s : State) : (s.atPort p f).active = s.active := rfl
@[simp] theorem State.atPort_schedule (p : Nat) (f : Port → Port) (s : State) :
    (s.atPort p f).schedule = s.schedule := rfl
@[simp] theorem State.atPort_seeded (p : Nat) (f : Port → Port) (s : State) : (s.atPort p f).seeded = s.seeded := rfl
@[simp] theorem State.atPort_nports (p : Nat) (f : Port → Port) (s : State) :
    (s.atPort p f).ports.length = s.ports.length := by simp

/-- What a requester does on its side of a port that is there is a write of that port. -/
theorem State.atPort_of_port {p : Nat} {s : State} {q : Port} (h : s.ports[p]? = some q) (f : Port → Port) :
    s.atPort p f = { s with ports := s.ports.set p (f q) } := by
  obtain ⟨hlt, rfl⟩ := List.getElem?_eq_some_iff.mp h
  simp [State.atPort, List.modify_eq_set_getElem?, hlt]

/-- Where there is no such port it changes nothing. -/
theorem State.atPort_of_none {p : Nat} {s : State} (h : s.ports[p]? = none) (f : Port → Port) :
    s.atPort p f = s := by
  simp [State.atPort, List.modify_eq_set_getElem?, h]

/-- It leaves every other port as it was. -/
theorem State.atPort_other {p k : Nat} (s : State) (f : Port → Port) (h : k ≠ p) :
    (s.atPort p f).ports[k]? = s.ports[k]? := by
  simp [Ne.symm h]

/-- `SEEDED` is read off the words. -/
theorem State.seeded_of_words {s : State} {g : Snapshot} (h : s.words = some g) : s.seeded = true := by
  simp [State.seeded, h]

theorem State.seeded_of_no_words {s : State} (h : s.words = none) : s.seeded = false := by
  simp [State.seeded, h]

@[simp] theorem State.putPort_seeded (s : State) (q : Port) : (s.putPort q).seeded = s.seeded := rfl

@[simp] theorem State.putWords_seeded (s : State) (g : Snapshot) : (s.putWords g).seeded = true := rfl

@[simp] theorem State.activate_seeded (s : State) (p : Nat) : (s.activate p).seeded = s.seeded := rfl

@[simp] theorem resetBlock_seeded (s : State) : (resetBlock s).seeded = false := rfl

/-- A port that is there is the one a write of it leaves there. -/
theorem State.port?_putPort {s : State} {q : Port} (h : s.port? = some q) (q' : Port) :
    (s.putPort q').port? = some q' := by
  have hlt : s.active < s.ports.length := (List.getElem?_eq_some_iff.mp h).1
  simp [State.port?, hlt]

/-- A write of one port leaves every other port as it was. -/
theorem State.putPort_other (s : State) (q : Port) {p : Nat} (hp : p ≠ s.active) :
    (s.putPort q).ports[p]? = s.ports[p]? := by
  simp [List.getElem?_set_ne (Ne.symm hp)]

/-- The number of ports never changes by a write of one. -/
@[simp] theorem State.putPort_nports (s : State) (q : Port) :
    (s.putPort q).ports.length = s.ports.length := by
  simp

end Sys2Proof.Machine
end

