-- ==== Sys2Proof/Laws/Ops.lean ====
section
/-! SUPPORT. What each shared step can do, said once: if it answers a next state, then which. -/

namespace Sys2Proof.Machine

/-- The status of an admitted command is `OK` exactly when the flag is as its class needs it (60_exceptions.md
R166). -/
theorem admission_ok_iff (c : CmdClass) (b : Bool) :
    admission c b = .ok ↔ (c = .seed ∧ b = false) ∨ ((c = .draw ∨ c = .read) ∧ b = true) := by
  cases c <;> cases b <;> decide

/-- ACCEPT of an admitted command. -/
theorem accept_admitted {c : CmdClass} {onAdmitted : Port → State → State} {q : Port} {s : State}
    (h : admission c s.seeded = .ok) : accept c onAdmitted q s = .next (onAdmitted q s) := by
  simp [accept, h]

/-- ACCEPT of a refused command. -/
theorem accept_refused {c : CmdClass} {onAdmitted : Port → State → State} {q : Port} {s : State}
    (h : admission c s.seeded ≠ .ok) :
    accept c onAdmitted q s = .next (s.putPort (q.respond (admission c s.seeded) 0)) := by
  unfold accept
  split
  · contradiction
  · rfl

/-- ACCEPT always answers a next state: a command that is admitted, or one that is refused. -/
theorem accept_cases (c : CmdClass) (onAdmitted : Port → State → State) (q : Port) (s : State) :
    (admission c s.seeded = .ok ∧ accept c onAdmitted q s = .next (onAdmitted q s)) ∨
    (admission c s.seeded ≠ .ok ∧
      accept c onAdmitted q s = .next (s.putPort (q.respond (admission c s.seeded) 0))) := by
  by_cases h : admission c s.seeded = .ok
  · exact .inl ⟨h, accept_admitted h⟩
  · exact .inr ⟨h, accept_refused h⟩

/-- SNAPSHOT, where the words hold a value. -/
theorem snapshotStep_next {q : Port} {s : State} {g : Snapshot} (h : s.words = some g) :
    snapshotStep q s = .next (s.putPort (q.holdSnapshot g)) := by
  simp [snapshotStep, h]

/-- A COMMIT whose snapshot is the state. -/
theorem commitStep_success {finish : Word → Port → Port} {q : Port} {s : State}
    (h : s.words = some q.ctx.snapshot) :
    commitStep finish q s =
      .next ((s.putPort (finish (raw q.ctx.snapshot) q)).putWords (next q.ctx.snapshot)) := by
  simp [commitStep, h]

/-- A COMMIT whose snapshot is not the state. -/
theorem commitStep_failure {finish : Word → Port → Port} {q : Port} {s : State} {g : Snapshot}
    (h : s.words = some g) (hne : g ≠ q.ctx.snapshot) :
    commitStep finish q s = .next (s.putPort (q.setPhase .fetch)) := by
  simp [commitStep, h, hne]

/-- READ, where the words hold a value. -/
theorem readStep_next {data : Snapshot → Data} {q : Port} {s : State} {g : Snapshot}
    (h : s.words = some g) : readStep data q s = .next (s.putPort (q.respond .ok (data g))) := by
  simp [readStep, h]

/-- A seed-class command in `IDLE`. -/
theorem seedCommand_idle {pair : Snapshot} {q : Port} {s : State} (hq : s.port? = some q)
    (hph : q.ctx.ph = .idle) :
    seedCommand pair s =
      accept .seed (fun q s => (s.putPort (q.respond .ok 0)).putWords pair) q s := by
  simp [seedCommand, hq, hph]

/-- A read-class command in `IDLE`. -/
theorem readCommand_idle {data : Snapshot → Data} {q : Port} {s : State} (hq : s.port? = some q)
    (hph : q.ctx.ph = .idle) :
    readCommand data s = accept .read (fun q s => s.putPort (q.setPhase .read)) q s := by
  simp [readCommand, hq, hph]

/-- A read-class command in `READ`. -/
theorem readCommand_read {data : Snapshot → Data} {q : Port} {s : State} (hq : s.port? = some q)
    (hph : q.ctx.ph = .read) : readCommand data s = readStep data q s := by
  simp [readCommand, hq, hph]

/-- A draw-class command in `IDLE`. -/
theorem drawCommand_idle {start : Port → Port} {finish : Word → Port → Port} {q : Port} {s : State}
    (hq : s.port? = some q) (hph : q.ctx.ph = .idle) :
    drawCommand start finish s = accept .draw (fun q s => s.putPort (start q)) q s := by
  simp [drawCommand, hq, hph]

/-- A draw-class command in `FETCH`. -/
theorem drawCommand_fetch {start : Port → Port} {finish : Word → Port → Port} {q : Port} {s : State}
    (hq : s.port? = some q) (hph : q.ctx.ph = .fetch) :
    drawCommand start finish s = snapshotStep q s := by
  simp [drawCommand, hq, hph]

/-- A draw-class command in `HELD`. -/
theorem drawCommand_held {start : Port → Port} {finish : Word → Port → Port} {q : Port} {s : State}
    (hq : s.port? = some q) (hph : q.ctx.ph = .held) :
    drawCommand start finish s = commitStep finish q s := by
  simp [drawCommand, hq, hph]

end Sys2Proof.Machine
end

