-- ==== Sys2Proof/Laws/PerInstr.lean ====
section
/-! SUPPORT. The statements made of every command as syntax: one family, one lemma per constructor. -/

namespace Sys2Proof.Laws.OpcodeField

open Sys2Proof Sys2Proof.Machine

/-- The word a command is encoded in has the command's opcode in `CMD[132:128]`, and that opcode is of a
class, not reserved (30_encoding.md R60, R62, R63). -/
def Statement (i : Instr) : Prop := opField (encode i) = i.opcode ∧ i.cmdClass ≠ .reserved

theorem seed1 (s : Word) : Statement (.seed1 s) := ⟨opField_packCmd .., by simp [Instr.cmdClass, Instr.opcode, classOf]⟩
theorem seed2 (a b : Word) : Statement (.seed2 a b) := ⟨opField_packCmd .., by simp [Instr.cmdClass, Instr.opcode, classOf]⟩
theorem seedE : Statement .seedE := ⟨opField_packCmd .., by simp [Instr.cmdClass, Instr.opcode, classOf]⟩
theorem getW0 : Statement .getW0 := ⟨opField_packCmd .., by simp [Instr.cmdClass, Instr.opcode, classOf]⟩
theorem getW1 : Statement .getW1 := ⟨opField_packCmd .., by simp [Instr.cmdClass, Instr.opcode, classOf]⟩
theorem copy : Statement .copy := ⟨opField_packCmd .., by simp [Instr.cmdClass, Instr.opcode, classOf]⟩
theorem nextLong : Statement .nextLong := ⟨opField_packCmd .., by simp [Instr.cmdClass, Instr.opcode, classOf]⟩
theorem nextInt : Statement .nextInt := ⟨opField_packCmd .., by simp [Instr.cmdClass, Instr.opcode, classOf]⟩
theorem nextBits (n : BitVec 5) : Statement (.nextBits n) := ⟨opField_packCmd .., by simp [Instr.cmdClass, Instr.opcode, classOf]⟩
theorem nextBool : Statement .nextBool := ⟨opField_packCmd .., by simp [Instr.cmdClass, Instr.opcode, classOf]⟩
theorem nextIntB (bound : Half) : Statement (.nextIntB bound) := ⟨opField_packCmd .., by simp [Instr.cmdClass, Instr.opcode, classOf]⟩
theorem nextIntR (lo hi : Half) : Statement (.nextIntR lo hi) := ⟨opField_packCmd .., by simp [Instr.cmdClass, Instr.opcode, classOf]⟩
theorem nextLongB (bound : Word) : Statement (.nextLongB bound) := ⟨opField_packCmd .., by simp [Instr.cmdClass, Instr.opcode, classOf]⟩
theorem nextLongR (lo hi : Word) : Statement (.nextLongR lo hi) := ⟨opField_packCmd .., by simp [Instr.cmdClass, Instr.opcode, classOf]⟩
theorem nextDouble : Statement .nextDouble := ⟨opField_packCmd .., by simp [Instr.cmdClass, Instr.opcode, classOf]⟩
theorem nextFloat : Statement .nextFloat := ⟨opField_packCmd .., by simp [Instr.cmdClass, Instr.opcode, classOf]⟩
theorem nextBytes (len : Half) : Statement (.nextBytes len) := ⟨opField_packCmd .., by simp [Instr.cmdClass, Instr.opcode, classOf]⟩

end Sys2Proof.Laws.OpcodeField
end

