-- ==== Sys2Proof/Tests/Slice0.lean ====
section
/-! SUPPORT. The model's own tests, and for every statement that has hypotheses a concrete state and
operands that meet them. Expected values are the spec's: "95 section n" is 95_test_vectors.md, whose
sections 1 to 3 are the source's own examples and whose later sections are worked out from the rules. -/

namespace Sys2Proof.Tests

open Sys2Proof Sys2Proof.Machine

/-! ## Small states -/

/-- The states of 95 section 1, rows 0 to 5. -/
def row0 : Snapshot := ⟨123, 456⟩
def row1 : Snapshot := ⟨0x3D800000006CC1B3, 0x00001B3000000000⟩
def row2 : Snapshot := ⟨0xE2D2DB2B300037D3, 0x06CC1B33D801B300⟩
def row3 : Snapshot := ⟨0xBDE993751CAD44C8, 0x80184D3E41EC018E⟩
def row4 : Snapshot := ⟨0x2E3DFDD2B69E93E4, 0xD4145463DF1DE4B5⟩
def row5 : Snapshot := ⟨0x6252ED2F5D0C7818, 0x9837751FA29A9B16⟩

/-- A port in a phase with a command latched. -/
def portIn (ph : Phase) (i : Instr) : Port :=
  ({ Port.reset with ctx := { Context.idle with ph := ph } } : Port).latch (encode i)

/-- A block of two ports, the second one idle; `ent` is 123. -/
def blockOf (w : Option Snapshot) (q : Port) : State :=
  { words := w, ports := [q, Port.reset], ent := 123, active := 0, schedule := [] }

/-- Port 0 about to decide on a command it has latched. -/
def accepting (w : Option Snapshot) (i : Instr) : State := blockOf w (portIn .idle i)

/-- Port 0 holding the state of the block as its snapshot. -/
def holding (g : Snapshot) (i : Instr) : State :=
  blockOf (some g) ((portIn .fetch i).holdSnapshot g)

/-- Port 0 with `cnt` bytes of a `NEXTBYTES` left, holding the state of the block as its snapshot. -/
def filling (g : Snapshot) (len cnt : Half) : State :=
  blockOf (some g) (((portIn .fetch (.nextBytes len)).holdSnapshot g).setCount cnt)

/-- Port 0 idle with words presented to it. -/
def presented (w : Option Snapshot) (cs : List CmdWord) : State :=
  blockOf w { Port.reset with pending := cs }

/-- What an outcome leaves in port 0. -/
def port0 : Host.Outcome State Fault Refusal → Option Port
  | .next s => s.ports[0]?
  | .fault _ => none
  | .refused _ => none

/-- The response port 0 has ready after an outcome. -/
def answer (o : Host.Outcome State Fault Refusal) : Option (Status × Data) :=
  (port0 o).bind fun q => if q.ctx.ph = .done then some (q.ctx.st, q.ctx.res) else none

/-- The phase of port 0 after an outcome. -/
def phase (o : Host.Outcome State Fault Refusal) : Option Phase := (port0 o).map fun q => q.ctx.ph

/-- The state words after an outcome. -/
def wordsOf : Host.Outcome State Fault Refusal → Option Snapshot
  | .next s => s.words
  | .fault _ => none
  | .refused _ => none

/-! ## Decoding: words written out in 95 section 10 -/

theorem test_decode_seed1 : decode 0x01000000000000007B0000000000000000#133 = .ok (.seed1 123) := by decide
theorem test_decode_seed2 : decode 0x02000000000000007B00000000000001C8#133 = .ok (.seed2 123 456) := by decide
theorem test_decode_seedE : decode 0x0300000000000000000000000000000000#133 = .ok .seedE := by decide
theorem test_decode_getW0 : decode 0x0400000000000000000000000000000000#133 = .ok .getW0 := by decide
theorem test_decode_getW1 : decode 0x0500000000000000000000000000000000#133 = .ok .getW1 := by decide
theorem test_decode_copy : decode 0x0600000000000000000000000000000000#133 = .ok .copy := by decide
theorem test_decode_nextLong : decode 0x0800000000000000000000000000000000#133 = .ok .nextLong := by decide
theorem test_decode_nextInt : decode 0x0900000000000000000000000000000000#133 = .ok .nextInt := by decide
theorem test_decode_nextBits_32 : decode 0x0A000000000000001F0000000000000000#133 = .ok (.nextBits 31) := by decide
theorem test_decode_nextBool : decode 0x0B00000000000000000000000000000000#133 = .ok .nextBool := by decide
theorem test_decode_nextIntB_neg :
    decode 0x0C00000000FFFFFF9C0000000000000000#133 = .ok (.nextIntB (-100)) := by decide
theorem test_decode_nextIntR_neg :
    decode 0x0D00000000FFFFFFFD0000000000000004#133 = .ok (.nextIntR (-3) 4) := by decide
theorem test_decode_nextLongB_neg :
    decode 0x0EFFFFFFFFFFFFFF9C0000000000000000#133 = .ok (.nextLongB (-100)) := by decide
theorem test_decode_nextLongR :
    decode 0x0FFFFFFFFFFFFFFFFB0000000000000005#133 = .ok (.nextLongR (-5) 5) := by decide
theorem test_decode_nextDouble : decode 0x1000000000000000000000000000000000#133 = .ok .nextDouble := by decide
theorem test_decode_nextFloat : decode 0x1100000000000000000000000000000000#133 = .ok .nextFloat := by decide
theorem test_decode_nextBytes : decode 0x12000000000000000B0000000000000000#133 = .ok (.nextBytes 11) := by decide

/-- Reserved opcodes are refused by name, whatever the operands are. -/
theorem test_decode_reserved :
    decode 0x0000000000000000000000000000000000#133 = .error (.reservedOpcode 0x00) ∧
    decode 0x0700000000000000000000000000000000#133 = .error (.reservedOpcode 0x07) ∧
    decode 0x1300000000000000000000000000000000#133 = .error (.reservedOpcode 0x13) ∧
    decode 0x1FFFFFFFFFFFFFFFFFFFFFFFFFFFFFFFFF#133 = .error (.reservedOpcode 0x1F) := by decide

/-- R65: junk in the bits `NEXTINT.B` and `NEXTBITS` do not read. -/
theorem test_decode_junk :
    decode 0x0CDEADBEEF00000064FFFFFFFFFFFFFFFF#133 = .ok (.nextIntB 100) ∧
    decode 0x0AFFFFFFFFFFFFFFE70000000000000000#133 = .ok (.nextBits 7) := by decide

/-- The host's two entry points on the row of `SEED1 123`, in whole bytes. -/
theorem test_table_word :
    decodeTableWord 136 0x01000000000000007B0000000000000000 = some (.seed1 123) ∧
    wordsOf (step (State.reset.withFetchWord 136 0x01000000000000007B0000000000000000)) =
      some ⟨0xB4DC9BD462DE412B, 0xFA023CE9F06FB77C⟩ := by decide

/-! ## The assembler: each check refuses an ill-formed term (30_encoding.md R73, R64) -/

theorem smoke_nextBits : AsmOp.wellFormed (.nextBits 0) = false ∧ AsmOp.wellFormed (.nextBits 33) = false ∧
    AsmOp.wellFormed (.nextBits 1) = true ∧ AsmOp.wellFormed (.nextBits 32) = true := by decide
theorem smoke_seed1 : AsmOp.wellFormed (.seed1 (2 ^ 64)) = false ∧
    AsmOp.wellFormed (.seed1 (2 ^ 64 - 1)) = true := by decide
theorem smoke_seed2 : AsmOp.wellFormed (.seed2 0 (2 ^ 64)) = false ∧
    AsmOp.wellFormed (.seed2 (-2 ^ 63 - 1) 0) = false := by decide
theorem smoke_nextIntB : AsmOp.wellFormed (.nextIntB (2 ^ 32)) = false ∧
    AsmOp.wellFormed (.nextIntB (-2 ^ 31 - 1)) = false ∧ AsmOp.wellFormed (.nextIntB (-2 ^ 31)) = true := by
  decide
theorem smoke_nextIntR : AsmOp.wellFormed (.nextIntR 0 (2 ^ 32)) = false ∧
    AsmOp.wellFormed (.nextIntR (2 ^ 32) 0) = false := by decide
theorem smoke_nextLongB : AsmOp.wellFormed (.nextLongB (2 ^ 64)) = false := by decide
theorem smoke_nextLongR : AsmOp.wellFormed (.nextLongR 0 (-2 ^ 63 - 1)) = false ∧
    AsmOp.wellFormed (.nextLongR (2 ^ 64) 0) = false := by decide
theorem smoke_nextBytes : AsmOp.wellFormed (.nextBytes (-1)) = false ∧
    AsmOp.wellFormed (.nextBytes (2 ^ 32)) = false ∧ AsmOp.wellFormed (.nextBytes (2 ^ 32 - 1)) = true := by
  decide
theorem smoke_port : AsmLine.wellFormed 2 (.command 2 .copy) = false ∧
    AsmLine.wellFormed 2 (.readState 2) = false ∧ AsmLine.wellFormed 2 (.command 1 .copy) = true := by decide

/-- Encodings of 95 section 10. -/
theorem test_assemble :
    assemble (.nextIntR (-3) 4) = some 0x0D00000000FFFFFFFD0000000000000004#133 ∧
    assemble (.nextBits 8) = some 0x0A00000000000000070000000000000000#133 ∧
    assemble (.nextLongB 1000000007) = some 0x0E000000003B9ACA070000000000000000#133 ∧
    assembleLine 2 (.readState 1) = some (.present 1 0x0600000000000000000000000000000000#133) := by decide

/-! ## The seed class (95 sections 2, 3 and 5) -/

theorem test_seed1 : wordsOf (exec (.seed1 123) (accepting none (.seed1 123))) =
    some ⟨0xB4DC9BD462DE412B, 0xFA023CE9F06FB77C⟩ := by decide
/-- The accumulator of the first word is 0 for this seed. -/
theorem test_seed1_zero_word : wordsOf (exec (.seed1 0x61C8864680B583EB) (accepting none .copy)) =
    some ⟨0, 0xE220A8397B1DCDAF⟩ := by decide
theorem test_seed2_both_zero : wordsOf (exec (.seed2 0 0) (accepting none (.seed2 0 0))) = some ⟨1, 0⟩ := by
  decide
theorem test_seed2_one_zero : wordsOf (exec (.seed2 0 1) (accepting none (.seed2 0 1))) = some ⟨0, 1⟩ := by
  decide
theorem test_seedE : wordsOf (exec .seedE (accepting none .seedE)) =
    some ⟨0xB4DC9BD462DE412B, 0xFA023CE9F06FB77C⟩ := by decide
theorem test_seedE_refused :
    answer (exec .seedE (accepting (some row0) .seedE)) = some (.alreadySeeded, 0) ∧
    wordsOf (exec .seedE (accepting (some row0) .seedE)) = some row0 := by decide

/-! ## The read class (95 section 10) -/

theorem test_getW0 : answer (exec .getW0 (blockOf (some row0) (portIn .read .getW0))) =
    some (.ok, 0x0000000000000000000000000000007B) := by decide
theorem test_getW1 : answer (exec .getW1 (blockOf (some row1) (portIn .read .getW1))) =
    some (.ok, 0x000000000000000000001B3000000000) := by decide
theorem test_copy : answer (exec .copy (blockOf (some row1) (portIn .read .copy))) =
    some (.ok, 0x00001B30000000003D800000006CC1B3) := by decide
theorem test_copy_unseeded : answer (exec .copy (accepting none .copy)) = some (.unseeded, 0) := by decide

/-! ## The draw class (95 sections 1, 7, 8, 9) -/

theorem test_nextLong : answer (exec .nextLong (holding row0 .nextLong)) = some (.ok, 0x243) ∧
    wordsOf (exec .nextLong (holding row0 .nextLong)) = some row1 := by decide
/-- A snapshot that differs in one word only: the COMMIT fails. -/
theorem test_nextLong_retry :
    phase (exec .nextLong { holding row0 .nextLong with words := some ⟨123, 457⟩ }) = some .fetch ∧
    wordsOf (exec .nextLong { holding row0 .nextLong with words := some ⟨123, 457⟩ }) =
      some ⟨123, 457⟩ := by decide
theorem test_nextInt_neg : answer (exec .nextInt (holding row4 .nextInt)) =
    some (.ok, 0xFFFFFFFF95BC7899) := by decide
theorem test_nextBits_8 : answer (exec (.nextBits 7) (holding row2 (.nextBits 7))) = some (.ok, 8) := by
  decide
theorem test_nextBits_32 : answer (exec (.nextBits 31) (holding row5 (.nextBits 31))) =
    some (.ok, 0xFFFFFFFFFFA7132E) := by decide
theorem test_nextBool : answer (exec .nextBool (holding row2 .nextBool)) = some (.ok, 1) ∧
    answer (exec .nextBool (holding row1 .nextBool)) = some (.ok, 0) := by decide
theorem test_nextIntB_neg : answer (exec (.nextIntB (-100)) (holding row2 (.nextIntB (-100)))) =
    some (.ok, 0xFFFFFFFFFFFFFFA4) := by decide
/-- The bound `-2^31`: minus the top bits of the raw value. -/
theorem test_nextIntB_min : (filterIntB 0x80000000 0xFFFFFFFFFFFFFFFF).toInt = -2147483647 ∧
    (filterIntB (-7) 0xFFFFFFFFFFFFFFFF).toInt = -7 := by decide
theorem test_nextIntR : answer (exec (.nextIntR 20 10) (holding row1 (.nextIntR 20 10))) =
    some (.ok, 17) := by decide
/-- `hi - lo` wraps to `-1`. -/
theorem test_nextIntR_wraps :
    (filterIntR 0x80000000 0x7FFFFFFF 0x0000000200000000).toInt = 2147483647 ∧
    (filterIntR 0x80000000 0x7FFFFFFF 0x00000001FFFFFFFF).toInt = -2147483648 := by decide
theorem test_nextLongB : answer (exec (.nextLongB 1000000007) (holding row2 (.nextLongB 1000000007))) =
    some (.ok, 912581829) := by decide
theorem test_nextLongB_neg : (filterLongB (-100) 0xE99EF65F0801EAD3).toInt = -92 ∧
    (filterLongB 0x8000000000000000 0x243).toInt = -290 ∧
    (filterLongB (-1) 0).toInt = 0 := by decide
theorem test_nextLongR : answer (exec (.nextLongR (-5) 5) (holding row1 (.nextLongR (-5) 5))) =
    some (.ok, 0xFFFFFFFFFFFFFFFD) := by decide
theorem test_nextLongR_inverted : (filterLongR 5 (-5) 0x3D801B30006CC1B3).toInt = 2 := by decide
theorem test_nextDouble : answer (exec .nextDouble (holding row0 .nextDouble)) =
    some (.ok, 0x3D32180000000000) := by decide
/-- The ends of the range: no 1.0, no `-0.0`; bit 53 does not reach the result. -/
theorem test_nextDouble_ends : filterDouble 0xFFFFFFFFFFFFFFFF = 0x3FEFFFFFFFFFFFFF ∧
    filterDouble 1 = 0x3CA0000000000000 ∧ filterDouble 0x0020000000000000 = 0 := by decide
theorem test_nextFloat : answer (exec .nextFloat (holding row5 .nextFloat)) = some (.ok, 0x3F27132E) := by
  decide
theorem test_nextFloat_ends : filterFloat 0xFFFFFFFFFFFFFFFF = 0x3F7FFFFF ∧
    filterFloat 1 = 0x33800000 ∧ filterFloat 0x0000000001000000 = 0 := by decide
/-- The last draw of `NEXTBYTES 11` after `SEED2 123, 456`: the low bytes of `r1` to indices 2, 1, 0, and
the answer. -/
theorem test_nextBytes_last :
    (port0 (exec (.nextBytes 11) (filling row1 11 3))).map (fun q => q.buf) =
      some [(0, 0x6C), (1, 0xC1), (2, 0xB3)] ∧
    answer (exec (.nextBytes 11) (filling row1 11 3)) = some (.ok, 0) := by decide
/-- Its first draw leaves 3 bytes and goes back to `FETCH`. -/
theorem test_nextBytes_first :
    (port0 (exec (.nextBytes 11) (filling row0 11 11))).map (fun q => (q.ctx.ph, q.ctx.cnt, q.buf)) =
      some (.fetch, 3, [(3, 0), (4, 0), (5, 0), (6, 0), (7, 0), (8, 0), (9, 0x02), (10, 0x43)]) := by
  decide

/-! ## Turns -/

/-- 95 section 10: a reserved word before seeding, and `NEXTBYTES 0` before and after it. -/
theorem test_accept_order :
    answer (takeTurn (.requester 0) (presented none [0#133])) = some (.illegalOp, 0) ∧
    answer (takeTurn (.requester 0) (presented none [encode (.nextBytes 0)])) = some (.unseeded, 0) ∧
    answer (takeTurn (.requester 0) (presented (some row0) [encode (.nextBytes 0)])) = some (.ok, 0) ∧
    phase (takeTurn (.requester 0) (presented (some row0) [encode .nextLong])) = some .fetch := by decide

/-- 95 section 11, trace T9, row 8. -/
theorem test_reset_keeps_the_buffer :
    wordsOf (takeTurn .reset (filling row1 11 3)) = none ∧
    phase (takeTurn .reset (filling row1 11 3)) = some .idle := by decide

/-- R189: a store at an index that the `NEXTBYTES` in flight has filled (3) has no lasting effect; one at an
index it has not filled (2), and one above its length (11), lands. -/
theorem test_store_in_flight :
    (port0 (takeTurn (.store 0 3 0xAA) (filling row1 11 3))).map (fun q => q.buf) = some [] ∧
    (port0 (takeTurn (.store 0 2 0xAA) (filling row1 11 3))).map (fun q => q.buf) = some [(2, 0xAA)] ∧
    (port0 (takeTurn (.store 0 11 0xAA) (filling row1 11 3))).map (fun q => q.buf) =
      some [(11, 0xAA)] := by decide
/-- R71, R194: a presented word waits behind those before it; 95 section 11, trace T8, row 3 accepts one. -/
theorem test_present :
    (port0 (takeTurn (.present 0 (encode .copy)) (presented none [encode .seedE]))).map (fun q => q.pending) =
      some [encode .seedE, encode .copy] ∧
    phase (takeTurn (.requester 0) (presented (some row0) [0x0800000000000000000000000000000000#133])) =
      some .fetch := by decide
/-- R40: with no command in flight every store lands. -/
theorem test_store_when_idle :
    (port0 (takeTurn (.store 0 3 0xAA) (presented none []))).map (fun q => q.buf) = some [(3, 0xAA)] := by
  decide

/-- R36, the worked inverse of 95 section 6. -/
theorem test_unNext : unNext row1 = row0 ∧ next row0 = row1 := by decide

/-! ## Witnesses: for each statement with hypotheses, a state and operands that meet them all -/

/-- Two operand words that agree in the bits a command reads and differ elsewhere. -/
theorem witness_UnreadOperandBitsChangeNothing :
    (0xFFFFFFFFFFFFFFE7#64).setWidth 5 = (7#64).setWidth 5 ∧
    (0xDEADBEEF00000064#64).setWidth 32 = (100#64).setWidth 32 ∧
    (0xFFFFFFFF00000014#64).setWidth 32 = (20#64).setWidth 32 := by decide

/-- Both sides of every boundary of the reserved opcodes. -/
theorem witness_ReservedOpcodesAreExactlyTheFifteen :
    (∀ op ∈ ([0x00, 0x07, 0x13, 0x1F] : List (BitVec 5)),
      decode (packCmd op 1 2) = .error (.reservedOpcode op)) ∧
    ∀ op ∈ ([0x01, 0x06, 0x08, 0x12] : List (BitVec 5)), ∃ i, decode (packCmd op 1 2) = .ok i :=
  ⟨by decide, by
    intro op h
    simp only [List.mem_cons, List.not_mem_nil, or_false] at h
    rcases h with rfl | rfl | rfl | rfl <;> exact ⟨_, rfl⟩⟩

/-- The ends of each range of the assembler statement. -/
theorem witness_AssemblerStoresOperands :
    ¬((1 : Int) ≤ 0 ∧ (0 : Int) ≤ 32) ∧ ¬((1 : Int) ≤ 33 ∧ (33 : Int) ≤ 32) ∧
    assemble (.nextBits 1) ≠ none ∧ assemble (.nextBits 32) ≠ none ∧
    assemble (.nextIntB (-2 ^ 31)) ≠ none ∧ assemble (.nextIntB (2 ^ 31 - 1)) ≠ none ∧
    assemble (.nextLongB (-2 ^ 63)) ≠ none ∧ assemble (.nextLongB (2 ^ 63 - 1)) ≠ none ∧
    assemble (.nextIntR (-2 ^ 31) (2 ^ 31 - 1)) = some (packCmd 0x0D 0x80000000 0x7FFFFFFF) ∧
    assemble (.nextLongR (-2 ^ 63) (2 ^ 63 - 1)) =
      some (packCmd 0x0F 0x8000000000000000 0x7FFFFFFFFFFFFFFF) := by decide

/-- A schedule whose next turn is the requester's, with a command presented. -/
def scheduled (t : Turn) (s : State) : State := { s with schedule := [t] }

theorem witness_AcceptStepRunsTheDecodedCommand :
    ∃ q, (scheduled (.requester 0) (presented (some row0) [encode .nextLong])).schedule = [.requester 0] ∧
      (scheduled (.requester 0) (presented (some row0) [encode .nextLong])).ports[0]? = some q ∧
      q.ctx.ph = .idle ∧ q.pending = [encode .nextLong] ∧ decode (encode .nextLong) = .ok .nextLong :=
  ⟨_, rfl, rfl, by decide, by decide, by decide⟩

/-- A command in flight in each of the three phases. -/
theorem witness_SequencerStepRunsTheLatchedCommand :
    (∃ q, (blockOf (some row0) (portIn .fetch .nextInt)).ports[0]? = some q ∧ q.ctx.ph = .fetch ∧
      decode (packCmd q.ctx.op q.ctx.a q.ctx.b) = .ok .nextInt) ∧
    (∃ q, (holding row0 .nextInt).ports[0]? = some q ∧ q.ctx.ph = .held ∧
      decode (packCmd q.ctx.op q.ctx.a q.ctx.b) = .ok .nextInt) ∧
    (∃ q, (blockOf (some row0) (portIn .read .copy)).ports[0]? = some q ∧ q.ctx.ph = .read ∧
      decode (packCmd q.ctx.op q.ctx.a q.ctx.b) = .ok .copy) :=
  ⟨⟨_, rfl, by decide, by decide⟩, ⟨_, rfl, by decide, by decide⟩, ⟨_, rfl, by decide, by decide⟩⟩

theorem witness_PlacedWordIsRunNext :
    State.reset.ports = [Port.reset, Port.reset] ∧
    decodeTableWord 136 0x0E000000003B9ACA070000000000000000 = some (.nextLongB 1000000007) := by decide

/-- What the three statements about ACCEPT ask of a state, for one word. -/
def Accepts (w : Option Snapshot) (c : CmdWord) : Prop :=
  ∃ q s', (presented w [c]).ports[0]? = some q ∧ q.ctx.ph = .idle ∧ q.pending = [c] ∧
    takeTurn (.requester 0) (presented w [c]) = .next s'

theorem witness_AcceptLatchesTheWholeWord :
    Accepts none 0x1FFFFFFFFFFFFFFFFFFFFFFFFFFFFFFFFF#133 ∧ ∃ q, State.reset.ports[1]? = some q :=
  ⟨⟨_, _, rfl, rfl, rfl, rfl⟩, _, rfl⟩

/-- Every clause of the order: reserved; seed class seeded and not; draw and read class not and seeded. -/
theorem witness_StatusIsDecidedInOrder :
    (Accepts none 0#133 ∧ classOf (opField 0#133) = .reserved) ∧
    (Accepts (some row0) (encode (.seed1 5)) ∧ classOf (opField (encode (.seed1 5))) = .seed) ∧
    (Accepts none (encode (.seed1 5)) ∧ classOf (opField (encode (.seed1 5))) = .seed) ∧
    (Accepts none (encode .nextLong) ∧ classOf (opField (encode .nextLong)) = .draw) ∧
    (Accepts none (encode .copy) ∧ classOf (opField (encode .copy)) = .read) ∧
    (Accepts (some row0) (encode .nextLong) ∧ classOf (opField (encode .nextLong)) = .draw) ∧
    (Accepts (some row0) (encode .copy) ∧ classOf (opField (encode .copy)) = .read) :=
  ⟨⟨⟨_, _, rfl, rfl, rfl, rfl⟩, by decide⟩, ⟨⟨_, _, rfl, rfl, rfl, rfl⟩, by decide⟩,
    ⟨⟨_, _, rfl, rfl, rfl, rfl⟩, by decide⟩, ⟨⟨_, _, rfl, rfl, rfl, rfl⟩, by decide⟩,
    ⟨⟨_, _, rfl, rfl, rfl, rfl⟩, by decide⟩, ⟨⟨_, _, rfl, rfl, rfl, rfl⟩, by decide⟩,
    ⟨⟨_, _, rfl, rfl, rfl, rfl⟩, by decide⟩⟩

theorem witness_ReservedCommandIsAnsweredIllegalOp :
    Accepts (some row0) 0x1300000000000000000000000000000000#133 ∧
    decode 0x1300000000000000000000000000000000#133 = .error (.reservedOpcode 0x13) :=
  ⟨⟨_, _, rfl, rfl, rfl, rfl⟩, by decide⟩

theorem witness_NextIsABijectionAndKeepsNonZero :
    next ⟨123, 456⟩ = ⟨0x3D800000006CC1B3, 0x00001B3000000000⟩ ∧ ¬(row0.s0 = 0 ∧ row0.s1 = 0) := by decide

/-- The intermediate values of 95 section 2. -/
theorem witness_MixIsTheStatedBijection :
    (0x9E3779BB07979A75 : Word) = 0x9E3779B97F4A7C90 ^^^ (0x9E3779B97F4A7C90 >>> 30) ∧
    (0x7FFDD4AE75ED478D : Word) = 0x9E3779BB07979A75 * 0xBF58476D1CE4E5B9 ∧
    (0x7FFDD4A18A57D243 : Word) = 0x7FFDD4AE75ED478D ^^^ (0x7FFDD4AE75ED478D >>> 27) ∧
    (0xB4DC9BD50B677681 : Word) = 0x7FFDD4A18A57D243 * 0x94D049BB133111EB := by decide

/-- A port about to decide on a command, in a block with these words. -/
def Deciding (w : Option Snapshot) (i : Instr) : Prop :=
  ∃ q, (accepting w i).port? = some q ∧ q.ctx.ph = .idle ∧ (accepting w i).words = w

theorem deciding (w : Option Snapshot) (i : Instr) : Deciding w i := ⟨_, rfl, rfl, rfl⟩

theorem witness_SeedOneExpandsTheSeed : Deciding none (.seed1 7) ∧ Deciding (some row0) (.seed1 7) :=
  ⟨deciding _ _, deciding _ _⟩
/-- Both clauses on the pair. -/
theorem witness_SeedTwoStoresThePair :
    Deciding none (.seed2 0 0) ∧ Deciding none (.seed2 0 1) ∧ Deciding (some row0) (.seed2 1 2) ∧
    ((0 : Word) = 0 ∧ (0 : Word) = 0) ∧ ¬((0 : Word) = 0 ∧ (1 : Word) = 0) :=
  ⟨deciding _ _, deciding _ _, deciding _ _, by decide, by decide⟩
theorem witness_SeedEntropyExpandsTheInput : Deciding none .seedE ∧ Deciding (some row0) .seedE :=
  ⟨deciding _ _, deciding _ _⟩
theorem witness_SecondSeedIsRefused :
    Instr.cmdClass .seedE = .seed ∧ Deciding (some row0) .seedE ∧ IsSeeded (accepting (some row0) .seedE) :=
  ⟨by decide, deciding _ _, _, rfl⟩

/-- A port in `READ`. -/
def Reading (g : Snapshot) (i : Instr) : Prop :=
  ∃ q, (blockOf (some g) (portIn .read i)).port? = some q ∧ q.ctx.ph = .read ∧
    (blockOf (some g) (portIn .read i)).words = some g

theorem witness_ReadsAnswerTheStateWords : Reading row0 .copy ∧ Reading row0 .getW0 ∧ Reading row0 .getW1 :=
  ⟨⟨_, rfl, rfl, rfl⟩, ⟨_, rfl, rfl, rfl⟩, ⟨_, rfl, rfl, rfl⟩⟩
theorem witness_ReadCommandIsAdmitted :
    Instr.cmdClass .copy = .read ∧ Deciding (some row0) .copy ∧ IsSeeded (accepting (some row0) .copy) :=
  ⟨by decide, deciding _ _, _, rfl⟩
theorem witness_UnseededCommandIsRefused :
    Instr.cmdClass .nextLong = .draw ∧ Deciding none .nextLong ∧ Unseeded (accepting none .nextLong) ∧
    Instr.cmdClass .copy = .read ∧ Deciding none .copy ∧ Unseeded (accepting none .copy) :=
  ⟨by decide, deciding _ _, rfl, by decide, deciding _ _, rfl⟩
/-- One command of each clause: not `NEXTBYTES`, `NEXTBYTES 1`, `NEXTBYTES 0`. -/
theorem witness_DrawCommandIsAdmitted :
    Instr.cmdClass .nextLong = .draw ∧ Deciding (some row0) .nextLong ∧
    IsSeeded (accepting (some row0) .nextLong) ∧ (∀ len, Instr.nextLong ≠ .nextBytes len) ∧
    Instr.cmdClass (.nextBytes 1) = .draw ∧ Deciding (some row0) (.nextBytes 1) ∧ (1 : Half) ≠ 0 ∧
    Deciding (some row0) (.nextBytes 0) :=
  ⟨by decide, deciding _ _, ⟨_, rfl⟩, fun _ h => (by cases h), by decide, deciding _ _, by decide,
    deciding _ _⟩
theorem witness_SnapshotTakesBothWords :
    Instr.cmdClass .nextFloat = .draw ∧ ∃ q, (blockOf (some row0) (portIn .fetch .nextFloat)).port? = some q ∧
      q.ctx.ph = .fetch ∧ (blockOf (some row0) (portIn .fetch .nextFloat)).words = some row0 :=
  ⟨by decide, _, rfl, rfl, rfl⟩
/-- A snapshot that differs in the first word only, and one that differs in the second only. -/
theorem witness_FailedCommitChangesOnlyThePhase :
    Instr.cmdClass .nextLong = .draw ∧
    (∃ q, ({ holding row0 .nextLong with words := some ⟨122, 456⟩ } : State).port? = some q ∧
      q.ctx.ph = .held ∧ (122 : Word) ≠ q.ctx.t0) ∧
    (∃ q, ({ holding row0 .nextLong with words := some ⟨123, 457⟩ } : State).port? = some q ∧
      q.ctx.ph = .held ∧ (457 : Word) ≠ q.ctx.t1) :=
  ⟨by decide, ⟨_, rfl, rfl, by decide⟩, ⟨_, rfl, rfl, by decide⟩⟩

/-- A port whose snapshot is the state, and the same command before seeding: what `OneDrawRule` asks. -/
def Drawing (g : Snapshot) (i : Instr) : Prop :=
  (∃ q, (holding g i).port? = some q ∧ q.ctx.ph = .held ∧ (holding g i).words = some g ∧
    q.ctx.snapshot = g) ∧ Deciding none i

theorem drawing (g : Snapshot) (i : Instr) : Drawing g i := ⟨⟨_, rfl, rfl, rfl, rfl⟩, deciding _ _⟩

theorem witness_NextLongAnswersTheRawValue : Drawing row0 .nextLong := drawing _ _
theorem witness_NextIntAnswersTheLowHalf : Drawing row4 .nextInt := drawing _ _
/-- The two ends of the range of `n`. -/
theorem witness_NextBitsAnswersTheTopOfTheLowHalf :
    Drawing row2 (.nextBits 0) ∧ Drawing row2 (.nextBits 31) ∧
    (0 : Word).toNat % 32 + 1 = 1 ∧ (31 : Word).toNat % 32 + 1 = 32 :=
  ⟨drawing _ _, drawing _ _, by decide, by decide⟩
theorem witness_NextBoolTestsTheSign : Drawing row2 .nextBool := drawing _ _
theorem witness_NextIntBoundedIsTheScaledTopBits : Drawing row2 (.nextIntB 0x80000000) := drawing _ _
theorem witness_NextIntRangedAddsTheBounded : Drawing row2 (.nextIntR 0x80000000 0x7FFFFFFF) := drawing _ _
theorem witness_NextLongBoundedIsTheHighProduct : Drawing row2 (.nextLongB 0x8000000000000000) := drawing _ _
theorem witness_NextLongRangedAddsTheBounded : Drawing row2 (.nextLongR 5 (-5)) := drawing _ _
/-- Both clauses on `m`: zero, and the ends of the range of `k`. -/
theorem witness_NextDoubleAnswersTheFraction :
    Drawing row0 .nextDouble ∧ (0x0020000000000000 : Word).toNat % 2 ^ 53 = 0 ∧
    (2 ^ 0 ≤ (1 : Word).toNat % 2 ^ 53 ∧ (1 : Word).toNat % 2 ^ 53 < 2 ^ (0 + 1)) ∧
    (2 ^ 52 ≤ (0xFFFFFFFFFFFFFFFF : Word).toNat % 2 ^ 53 ∧
      (0xFFFFFFFFFFFFFFFF : Word).toNat % 2 ^ 53 < 2 ^ (52 + 1)) :=
  ⟨drawing _ _, by decide, by decide, by decide⟩
theorem witness_NextFloatAnswersTheFraction :
    Drawing row0 .nextFloat ∧ (0x0000000001000000 : Word).toNat % 2 ^ 24 = 0 ∧
    (2 ^ 0 ≤ (1 : Word).toNat % 2 ^ 24 ∧ (1 : Word).toNat % 2 ^ 24 < 2 ^ (0 + 1)) ∧
    (2 ^ 23 ≤ (0xFFFFFFFFFFFFFFFF : Word).toNat % 2 ^ 24 ∧
      (0xFFFFFFFFFFFFFFFF : Word).toNat % 2 ^ 24 < 2 ^ (23 + 1)) :=
  ⟨drawing _ _, by decide, by decide, by decide⟩

/-- Counts of 1, 8 and 9 bytes left: the draw ends the command, ends it exactly, and does not end it. -/
theorem witness_NextBytesFillsFromTheEnd :
    ∀ cnt ∈ ([1, 8, 9, 0xFFFFFFFF] : List Half),
      ∃ q, (filling row0 0xFFFFFFFF cnt).port? = some q ∧ q.ctx.ph = .held ∧
        (filling row0 0xFFFFFFFF cnt).words = some row0 ∧ q.ctx.snapshot = row0 ∧ q.ctx.cnt = cnt ∧
        cnt ≠ 0 := by
  intro cnt h
  refine ⟨_, rfl, rfl, rfl, rfl, rfl, ?_⟩
  simp only [List.mem_cons, List.not_mem_nil, or_false] at h
  rcases h with rfl | rfl | rfl | rfl <;> decide
theorem witness_CommitAppliesTheFilterTable :
    Instr.cmdClass .nextBool = .draw ∧ (∀ len, Instr.nextBool ≠ .nextBytes len) ∧ Drawing row2 .nextBool :=
  ⟨by decide, fun _ h => (by cases h), drawing _ _⟩

/-- A bound of each sign and both ends. -/
theorem witness_NextIntBoundedStaysInRange :
    0 < (1 : Half).toInt ∧ (0 : Half).toInt = 0 ∧ (-1 : Half).toInt < 0 ∧
    (0x80000000 : Half).toInt = -2 ^ 31 := by decide
/-- The widest range that does not wrap, upright and inverted, at both widths. -/
theorem witness_RangedDrawsStayInRange :
    ((0 : Half).toInt < (0x7FFFFFFF : Half).toInt ∧ (0x7FFFFFFF : Half).toInt - (0 : Half).toInt < 2 ^ 31) ∧
    ((0x80000000 : Half).toInt < (0 : Half).toInt ∧
      -2 ^ 31 ≤ (0x80000000 : Half).toInt - (0 : Half).toInt) ∧
    ((0 : Word).toInt < (0x7FFFFFFFFFFFFFFF : Word).toInt ∧
      (0x7FFFFFFFFFFFFFFF : Word).toInt - (0 : Word).toInt < 2 ^ 63) ∧
    ((0x8000000000000000 : Word).toInt < (0 : Word).toInt ∧
      -2 ^ 63 ≤ (0x8000000000000000 : Word).toInt - (0 : Word).toInt) := by decide
theorem witness_NextLongBoundedStaysInRange :
    0 < (1 : Word).toInt ∧ (0 : Word).toInt = 0 ∧ (-1 : Word).toInt < 0 ∧ (-1 : Word).toInt = -1 ∧
    (1 : Word) ≠ 0 := by decide
/-- The worked split of 95 section 7 with a negative bound. -/
theorem witness_FourProductsGiveTheHighWord :
    (134343379 : Int) = ((0xE99EF65F0801EAD3 : Word).toNat % 2 ^ 32 : Nat) ∧
    (3919509087 : Int) = ((0xE99EF65F0801EAD3 : Word).toNat / 2 ^ 32 : Nat) ∧
    (4294967196 : Int) = ((-100 : Word).toNat % 2 ^ 32 : Nat) ∧
    (-1 : Int) = ((-100 : Word).extractLsb' 32 32).toInt ∧
    (577000405804795284 : Int) = 134343379 * 4294967196 ∧
    (16834162953088910052 : Int) = 3919509087 * 4294967196 ∧
    (-134343379 : Int) = 134343379 * (-1) ∧ (-3919509087 : Int) = 3919509087 * (-1) ∧
    (16834162953088910048 : Int) =
      16834162953088910052 + (-134343379) + 577000405804795284 / 2 ^ 32 := by decide
theorem witness_FractionsAreExact :
    (1 : Word).toNat % 2 ^ 53 ≠ 0 ∧ (0xFFFFFFFFFFFFFFFF : Word).toNat % 2 ^ 53 ≠ 0 ∧
    (1 : Word).toNat % 2 ^ 24 ≠ 0 ∧ (0xFFFFFFFFFFFFFFFF : Word).toNat % 2 ^ 24 ≠ 0 := by decide

theorem witness_RespondHandsTheResponseOver :
    ∃ q, (blockOf (some row0) (portIn .done .nextLong)).ports[0]? = some q ∧ q.ctx.ph = .done :=
  ⟨_, rfl, rfl⟩
theorem witness_ResetDropsEverythingButTheBuffers : ∃ q, (filling row1 11 3).ports[1]? = some q := ⟨_, rfl⟩
theorem witness_ResetHasTheInvariant : (1 : Nat) ≤ 1 := by decide

/-- An idle port that nothing has touched keeps its own invariant. -/
theorem idle_port_inv (b : Bool) : Port.reset.Inv b := by
  refine ⟨⟨List.Pairwise.nil, fun c h => absurd h List.not_mem_nil⟩, fun _ => rfl, ?_, ?_, ?_, ?_, ?_⟩ <;>
    intro h <;> simp [Port.reset, Context.idle] at h

/-- A seeded block in which port 0 is to take its snapshot for a `NEXTBYTES 9`. -/
def fetching : State := blockOf (some row0) ((portIn .fetch (.nextBytes 9)).setCount 9)

theorem fetching_inv : fetching.Inv := by
  refine ⟨by simp [fetching, blockOf], ?_, ?_⟩
  · intro g h
    obtain rfl : row0 = g := Option.some.inj h
    decide
  · intro q hq
    simp only [fetching, blockOf, List.mem_cons, List.not_mem_nil, or_false] at hq
    rcases hq with rfl | rfl
    · refine ⟨⟨List.Pairwise.nil, fun c h => absurd h List.not_mem_nil⟩, ?_, ?_, ?_, ?_, ?_, ?_⟩
      · intro h; cases h
      · exact fun _ => ⟨by decide, by decide⟩
      · exact fun _ _ => by decide
      · intro h; cases h
      · intro h; cases h
      · intro h; cases h
    · exact idle_port_inv _

/-- The two turns of one draw of port 0 from that state. -/
theorem fetching_draws : ∃ s', run [.sequencer 0, .sequencer 0] fetching = .next s' := ⟨_, rfl⟩

theorem witness_StepKeepsTheInvariant :
    (scheduled (.sequencer 0) fetching).Inv ∧ ∃ s', step (scheduled (.sequencer 0) fetching) = .next s' :=
  ⟨⟨fetching_inv.somePort, fetching_inv.notBothZero, fetching_inv.eachPort⟩, _, rfl⟩
theorem witness_InvariantMeansNoStop : fetching.Inv := fetching_inv
theorem witness_OnlySeedCommitAndResetWriteTheWords :
    ∃ s', takeTurn (.sequencer 0) (holding row0 .nextLong) = .next s' ∧
      s'.words ≠ (holding row0 .nextLong).words := ⟨_, rfl, by decide⟩
/-- One turn of each of the four kinds. -/
theorem witness_PortsArePrivate :
    (1 : Nat) ≠ 0 ∧ ∀ t ∈ [Turn.sequencer 0, .requester 0, .present 0 0, .store 0 3 0xAA],
      ∃ s', takeTurn t fetching = .next s' := by
  refine ⟨by decide, fun t h => ?_⟩
  simp only [List.mem_cons, List.not_mem_nil, or_false] at h
  rcases h with rfl | rfl | rfl | rfl <;> exact ⟨_, rfl⟩

theorem filling_inv : (filling row0 9 9).Inv := by
  refine ⟨by simp [filling, blockOf], ?_, ?_⟩
  · intro g h
    obtain rfl : row0 = g := Option.some.inj h
    decide
  · intro q hq
    simp only [filling, blockOf, List.mem_cons, List.not_mem_nil, or_false] at hq
    rcases hq with rfl | rfl
    · refine ⟨⟨List.Pairwise.nil, fun c h => absurd h List.not_mem_nil⟩, ?_, ?_, ?_, ?_, ?_, ?_⟩
      · intro h; cases h
      · exact fun _ => ⟨by decide, by decide⟩
      · exact fun _ _ => by decide
      · intro h; cases h
      · intro h; cases h
      · intro h; cases h
    · exact idle_port_inv _

/-- A COMMIT that writes the byte at index 8; and its requester's store there before it. -/
theorem witness_OnlyNextBytesWritesItsBuffer :
    (filling row0 9 9).Inv ∧ ∀ t ∈ [Turn.sequencer 0, .store 0 8 0xAA],
      ∃ s' q q', takeTurn t (filling row0 9 9) = .next s' ∧ (filling row0 9 9).ports[0]? = some q ∧
        s'.ports[0]? = some q' ∧ q'.buf.read 8 ≠ q.buf.read 8 := by
  refine ⟨filling_inv, fun t h => ?_⟩
  simp only [List.mem_cons, List.not_mem_nil, or_false] at h
  rcases h with rfl | rfl <;> exact ⟨_, _, _, rfl, rfl, rfl, by decide⟩
theorem witness_DrawsFollowTheSequence :
    Turn.reset ∉ [Turn.sequencer 0, .sequencer 0] ∧ fetching.words = some row0 ∧
    ∃ s', run [.sequencer 0, .sequencer 0] fetching = .next s' :=
  ⟨by decide, rfl, fetching_draws⟩
/-- Two different blocks in the same state, each making one draw. -/
theorem witness_EqualEnginesGiveEqualSequences :
    SameEngine fetching (holding row0 .nextLong) ∧
    (∃ s', run [.sequencer 0, .sequencer 0] fetching = .next s') ∧
    (∃ s', run [.sequencer 0] (holding row0 .nextLong) = .next s') ∧
    (drawsOf [.sequencer 0, .sequencer 0] fetching).length =
      (drawsOf [.sequencer 0] (holding row0 .nextLong)).length :=
  ⟨⟨row0, rfl, rfl⟩, fetching_draws, ⟨_, rfl⟩, by decide⟩

/-- A seeded block with a `COPY` in `READ`. -/
def copying : State := blockOf (some row0) (portIn .read .copy)

theorem copying_inv : copying.Inv := by
  refine ⟨by simp [copying, blockOf], ?_, ?_⟩
  · intro g h
    obtain rfl : row0 = g := Option.some.inj h
    decide
  · intro q hq
    simp only [copying, blockOf, List.mem_cons, List.not_mem_nil, or_false] at hq
    rcases hq with rfl | rfl
    · refine ⟨⟨List.Pairwise.nil, fun c h => absurd h List.not_mem_nil⟩, ?_, ?_, ?_, ?_, ?_, ?_⟩
      · intro h; cases h
      · rintro (h | h) <;> cases h
      · rintro (h | h) <;> cases h
      · exact fun _ => ⟨by decide, by decide⟩
      · intro h; cases h
      · intro h; cases h
    · exact idle_port_inv _

theorem witness_CloneMakesAnEqualEngine :
    copying.Inv ∧ copying.words = some row0 ∧
    (∃ q, copying.ports[0]? = some q ∧ q.ctx.ph = .read ∧ q.ctx.op = 0x06) ∧
    (∃ s', takeTurn (.sequencer 0) copying = .next s') ∧
    (presented none [cloneCommand 0x00000000000001C8000000000000007B]).words = none ∧
    (∃ q, (presented none [cloneCommand 0x00000000000001C8000000000000007B]).ports[0]? = some q ∧
      q.ctx.ph = .idle ∧ q.pending = [cloneCommand 0x00000000000001C8000000000000007B]) ∧
    answer (takeTurn (.sequencer 0) copying) = some (.ok, 0x00000000000001C8000000000000007B) :=
  ⟨copying_inv, rfl, ⟨_, rfl, by decide, by decide⟩, ⟨_, rfl⟩, rfl, ⟨_, rfl, by decide, by decide⟩,
    by decide⟩
/-- A `NEXTBYTES 9` whose requester stores at an index not yet filled, at one filled already, and at a
filled one before it takes the answer; a turn of it passes, and it presents a command. -/
def storing : List Turn :=
  [.sequencer 0, .store 0 8 0xAA, .requester 0, .sequencer 0, .store 0 3 0xBB, .present 0 0, .sequencer 0,
    .sequencer 0, .store 0 0 0xCC]

/-- Both parts: the port alone; and the schedule of stores, at whose end the command is answered. -/
theorem witness_NextBytesFillsTheBuffer :
    ∃ q, fetching.Inv ∧ fetching.ports[0]? = some q ∧ fetching.words = some row0 ∧ q.ctx.ph = .fetch ∧
      q.ctx.op = 0x12 ∧ q.ctx.cnt = q.ctx.a.setWidth 32 ∧ q.ctx.cnt ≠ 0 ∧
      Turn.reset ∉ storing ∧
      ∃ s' q', run storing fetching = .next s' ∧ s'.ports[0]? = some q' ∧ q'.received = q.received ∧
        q'.ctx.ph = .done :=
  ⟨_, fetching_inv, rfl, rfl, by decide, by decide, by decide, by decide, by decide,
    _, _, rfl, rfl, by decide, by decide⟩
theorem witness_FullMachineRefinesTheSimple :
    fetching.Inv ∧ ∃ s', run [.sequencer 0, .sequencer 0] fetching = .next s' :=
  ⟨fetching_inv, fetching_draws⟩
theorem witness_SimpleMachineIsAFullOne :
    fetching.Inv ∧ (∀ q ∈ fetching.ports, q.ctx.ph ≠ .held) ∧
    ∃ t, simpleRun [.sequencer 0] fetching.collapse = .next t :=
  ⟨fetching_inv, by decide, _, rfl⟩
/-- Between the SNAPSHOT and the COMMIT the other port and the environment take turns. -/
theorem witness_UndisturbedCommitSucceeds :
    (∃ q, fetching.ports[0]? = some q ∧ q.ctx.ph = .fetch) ∧ fetching.words = some row0 ∧
    ∃ s1 s2, takeTurn (.sequencer 0) fetching = .next s1 ∧
      Turn.reset ∉ [Turn.requester 1, .drive 7] ∧ Turn.sequencer 0 ∉ [Turn.requester 1, .drive 7] ∧
      drawsOf [.requester 1, .drive 7] s1 = [] ∧ run [.requester 1, .drive 7] s1 = .next s2 :=
  ⟨⟨_, rfl, by decide⟩, rfl, _, _, rfl, by decide, by decide, by decide, rfl⟩

/-- A turn of the sequencer of a port draws for no other port. -/
theorem sequencer_draws_for_itself (p : Nat) (u : State) : ¬OtherDraws p (.sequencer p) u := by
  rintro ⟨p', r, h, hp⟩
  simp only [drawOfTurn] at h
  split at h
  · split at h
    · injection h with h
      injection h with h _
      exact hp h.symm
    · cases h
  · cases h
  · cases h

/-- The schedule that gives every turn to the sequencer of port 0; and, for the second part, port 1 idle with
nothing presented. -/
theorem witness_FairDrawEndsOnceOthersStopElseMayStarve :
    fetching.Inv ∧ (∃ q, fetching.ports[0]? = some q ∧ (q.ctx.ph = .fetch ∨ q.ctx.ph = .held)) ∧
    SequencerFair (fun _ => .sequencer 0) 0 ∧ (∀ n, (fun _ : Nat => Turn.sequencer 0) n ≠ .reset) ∧
    (∃ N, ∀ n, N ≤ n → ∀ u, runUpTo (fun _ => .sequencer 0) n fetching = .next u →
      ¬OtherDraws 0 (.sequencer 0) u) ∧
    (∃ q, fetching.ports[0]? = some q ∧ q.ctx.ph = .fetch) ∧
    ∃ r, fetching.ports[1]? = some r ∧ r.ctx.ph = .idle ∧ r.pending = [] :=
  ⟨fetching_inv, ⟨_, rfl, by decide⟩, fun n => ⟨n, le_refl n, rfl⟩, fun _ h => (by cases h),
    ⟨0, fun _ _ u _ => sequencer_draws_for_itself 0 u⟩, ⟨_, rfl, by decide⟩, _, rfl, by decide, by decide⟩

end Sys2Proof.Tests
end

section
/-! SUPPORT. What each command does in its steps, read off the command once: `exec` of a command of a class is
the shape of that class, with the command's own parts. -/

namespace Sys2Proof.Machine

/-- The pair that a seed-class command stores (40_seeding.md R82, R83, R85); the last arm is `SEEDE`, and of no
command of another class is it asked. -/
def seedPair (ent : Word) : Instr → Snapshot
  | .seed1 seed => seed1Words seed
  | .seed2 a b => seed2Words a b
  | _ => seed1Words ent

/-- The data that a read-class command answers (44_bytes_and_state_access.md R145 to R147); the last arm is
`COPY`. -/
def readData : Instr → Snapshot → Data
  | .getW0, g => placeWord g.s0
  | .getW1, g => placeWord g.s1
  | _, g => placePair g.s0 g.s1

/-- What the ACCEPT of an admitted draw-class command does to its port (41_advance.md R96). -/
def startDraw : Instr → Port → Port
  | .nextBytes len, q => startBytes len q
  | _, q => q.setPhase .fetch

/-- Every command is of a class. -/
theorem cmdClass_ne_reserved (i : Instr) : i.cmdClass ≠ .reserved := by
  cases i <;> simp [Instr.cmdClass, Instr.opcode, classOf]

theorem exec_of_seed {i : Instr} (h : i.cmdClass = .seed) (s : State) :
    exec i s = seedCommand (seedPair s.ent i) s := by
  cases i
  case seed1 | seed2 | seedE => rfl
  all_goals cases h

theorem exec_of_read {i : Instr} (h : i.cmdClass = .read) (s : State) :
    exec i s = readCommand (readData i) s := by
  cases i
  case getW0 | getW1 | copy => rfl
  all_goals cases h

theorem exec_of_draw {i : Instr} (h : i.cmdClass = .draw) (s : State) :
    exec i s = drawCommand (startDraw i) (finishDraw i) s := by
  cases i
  case seed1 | seed2 | seedE | getW0 | getW1 | copy => cases h
  all_goals rfl

/-- Fields that decode to a command have its opcode. -/
theorem opcode_of_decodeFields {op : BitVec 5} {a b : Word} {i : Instr} (h : decodeFields op a b = .ok i) :
    i.opcode = op := by
  revert h
  fun_cases decodeFields op a b <;> rintro ⟨⟩
  all_goals exact Eq.symm ‹op = _›

/-- A word that decodes has the opcode of the command. -/
theorem opcode_of_decode {c : CmdWord} {i : Instr} (h : decode c = .ok i) : i.opcode = opField c :=
  opcode_of_decodeFields h

theorem cmdClass_of_decode {c : CmdWord} {i : Instr} (h : decode c = .ok i) :
    i.cmdClass = classOf (opField c) := by
  rw [Instr.cmdClass, opcode_of_decode h]

/-- The length of a `NEXTBYTES` is read from operand `A` (30_encoding.md R64). -/
theorem length_of_decode {c : CmdWord} {len : Half} (h : decode c = .ok (.nextBytes len)) :
    len = lowHalf (aField c) := by
  have hop : opField c = 0x12 := (opcode_of_decode h).symm
  simp [decode, decodeFields, hop] at h
  exact h.symm

/-- Fields that do not decode have a reserved opcode (30_encoding.md R66). -/
theorem classOf_of_decodeFields_error {op : BitVec 5} {a b : Word} {e : DecodeError}
    (h : decodeFields op a b = .error e) : classOf op = .reserved := by
  revert h
  fun_cases decodeFields op a b <;> rintro ⟨⟩
  have : ¬(8 ≤ op ∧ op ≤ 0x12) := by bv_omega
  simp only [classOf, *, or_self, if_false]

theorem classOf_of_decode_error {c : CmdWord} {e : DecodeError} (h : decode c = .error e) :
    classOf (opField c) = .reserved :=
  classOf_of_decodeFields_error h

/-- `runCommand` is one of four shapes, by the class of the opcode. -/
theorem runCommand_cases (c : CmdWord) (s : State) :
    (classOf (opField c) = .reserved ∧ runCommand c s = reservedCommand s) ∨
    ∃ i, decode c = .ok i ∧
      (i.cmdClass = .seed ∧ runCommand c s = seedCommand (seedPair s.ent i) s ∨
       i.cmdClass = .read ∧ runCommand c s = readCommand (readData i) s ∨
       i.cmdClass = .draw ∧ runCommand c s = drawCommand (startDraw i) (finishDraw i) s) := by
  cases hd : decode c with
  | error e => exact .inl ⟨classOf_of_decode_error hd, by simp [runCommand, hd]⟩
  | ok i =>
    have hrun : runCommand c s = exec i s := by simp [runCommand, hd]
    refine .inr ⟨i, rfl, ?_⟩
    rw [hrun]
    cases hc : i.cmdClass with
    | seed => exact .inl ⟨rfl, exec_of_seed hc s⟩
    | read => exact .inr (.inl ⟨rfl, exec_of_read hc s⟩)
    | draw => exact .inr (.inr ⟨rfl, exec_of_draw hc s⟩)
    | reserved => exact absurd hc (cmdClass_ne_reserved i)

end Sys2Proof.Machine
end

section
/-! SUPPORT. What a turn can do, said once with all its guards (41_advance.md R95 to R102, R144): the inversion
of `takeTurn`. -/

namespace Sys2Proof.Machine

/-- The first line of ACCEPT (41_advance.md R96): the port latches the word it is presented. -/
def Port.take (q : Port) (c : CmdWord) (cs : List CmdWord) : Port := ({ q with pending := cs } : Port).latch c

@[simp] theorem Port.take_ctx_ph (q : Port) (c : CmdWord) (cs : List CmdWord) :
    (q.take c cs).ctx.ph = q.ctx.ph := rfl
@[simp] theorem Port.take_ctx_op (q : Port) (c : CmdWord) (cs : List CmdWord) :
    (q.take c cs).ctx.op = opField c := rfl
@[simp] theorem Port.take_ctx_a (q : Port) (c : CmdWord) (cs : List CmdWord) :
    (q.take c cs).ctx.a = aField c := rfl
@[simp] theorem Port.take_buf (q : Port) (c : CmdWord) (cs : List CmdWord) : (q.take c cs).buf = q.buf := rfl

/-- The rest of ACCEPT of the word `c`, from the port that has latched it: the words and the port before, the
words and the port after. -/
inductive AcceptStep (ent : Word) (c : CmdWord) (w : Option Snapshot) (q : Port) :
    Option Snapshot → Port → Prop
  | refuse : admission (classOf (opField c)) w.isSome ≠ .ok →
      AcceptStep ent c w q w (q.respond (admission (classOf (opField c)) w.isSome) 0)
  | seed {i : Instr} : decode c = .ok i → i.cmdClass = .seed → w = none →
      AcceptStep ent c w q (some (seedPair ent i)) (q.respond .ok 0)
  | read {i : Instr} : decode c = .ok i → i.cmdClass = .read → w.isSome = true →
      AcceptStep ent c w q w (q.setPhase .read)
  | draw {i : Instr} : decode c = .ok i → i.cmdClass = .draw → w.isSome = true →
      AcceptStep ent c w q w (startDraw i q)

/-- A step of the requester of a port: ACCEPT or RESPOND. -/
inductive RequesterStep (ent : Word) (w : Option Snapshot) (q : Port) : Option Snapshot → Port → Prop
  | accept {c : CmdWord} {cs : List CmdWord} {w' : Option Snapshot} {q' : Port} :
      q.ctx.ph = .idle → q.pending = c :: cs → AcceptStep ent c w (q.take c cs) w' q' →
      RequesterStep ent w q w' q'
  | respond : q.ctx.ph = .done → RequesterStep ent w q w q.handOver

/-- A step of the sequencer of a port: SNAPSHOT, COMMIT (successful or not) or READ. -/
inductive SequencerStep (w : Option Snapshot) (q : Port) : Option Snapshot → Port → Prop
  | snapshot {g : Snapshot} {i : Instr} : q.ctx.ph = .fetch → decode q.ctx.cmd = .ok i →
      i.cmdClass = .draw → w = some g → SequencerStep w q w (q.holdSnapshot g)
  | commit {i : Instr} : q.ctx.ph = .held → decode q.ctx.cmd = .ok i →
      i.cmdClass = .draw → w = some q.ctx.snapshot →
      SequencerStep w q (some (next q.ctx.snapshot)) (finishDraw i (raw q.ctx.snapshot) q)
  | retry {g : Snapshot} {i : Instr} : q.ctx.ph = .held → decode q.ctx.cmd = .ok i →
      i.cmdClass = .draw → w = some g → g ≠ q.ctx.snapshot → SequencerStep w q w (q.setPhase .fetch)
  | read {g : Snapshot} {i : Instr} : q.ctx.ph = .read → decode q.ctx.cmd = .ok i →
      i.cmdClass = .read → w = some g → SequencerStep w q w (q.respond .ok (readData i g))

/-- The state after a step of port `p` that leaves these words and this port. -/
def State.afterStep (s : State) (p : Nat) (w : Option Snapshot) (q : Port) : State :=
  { s with active := p, words := w, ports := s.ports.set p q }

@[simp] theorem State.afterStep_words (s : State) (p : Nat) (w : Option Snapshot) (q : Port) :
    (s.afterStep p w q).words = w := rfl
@[simp] theorem State.afterStep_ports (s : State) (p : Nat) (w : Option Snapshot) (q : Port) :
    (s.afterStep p w q).ports = s.ports.set p q := rfl
@[simp] theorem State.afterStep_ent (s : State) (p : Nat) (w : Option Snapshot) (q : Port) :
    (s.afterStep p w q).ent = s.ent := rfl
@[simp] theorem State.afterStep_schedule (s : State) (p : Nat) (w : Option Snapshot) (q : Port) :
    (s.afterStep p w q).schedule = s.schedule := rfl
@[simp] theorem State.afterStep_seeded (s : State) (p : Nat) (w : Option Snapshot) (q : Port) :
    (s.afterStep p w q).seeded = w.isSome := rfl

/-- What a turn can lead to. -/
inductive TurnEffect (s : State) : Turn → State → Prop
  | requester {p : Nat} {q q' : Port} {w' : Option Snapshot} : s.ports[p]? = some q →
      RequesterStep s.ent s.words q w' q' → TurnEffect s (.requester p) (s.afterStep p w' q')
  | requesterPasses {p : Nat} :
      (∀ q, s.ports[p]? = some q → q.ctx.ph ≠ .done ∧ (q.ctx.ph = .idle → q.pending = [])) →
      TurnEffect s (.requester p) s
  | sequencer {p : Nat} {q q' : Port} {w' : Option Snapshot} : s.ports[p]? = some q →
      SequencerStep s.words q w' q' → TurnEffect s (.sequencer p) (s.afterStep p w' q')
  | sequencerPasses {p : Nat} :
      (∀ q, s.ports[p]? = some q → q.ctx.ph = .idle ∨ q.ctx.ph = .done) → TurnEffect s (.sequencer p) s
  | reset : TurnEffect s .reset (resetBlock s)
  | drive {v : Word} : TurnEffect s (.drive v) (driveEntropy v s)
  | store {p : Nat} {i : BitVec 32} {v : Byte} : TurnEffect s (.store p i v) (requesterStore p i v s)
  | present {p : Nat} {c : CmdWord} : TurnEffect s (.present p c) (requesterPresent p c s)

/-- ACCEPT of a word of class `k`, inverted: it is refused, or admitted. -/
theorem accept_next {k : CmdClass} {f : Port → State → State} {q : Port} {s s' : State}
    (h : accept k f q s = .next s') :
    admission k s.seeded ≠ .ok ∧ s' = s.putPort (q.respond (admission k s.seeded) 0) ∨
    admission k s.seeded = .ok ∧ s' = f q s := by
  rcases accept_cases k f q s with ⟨hk, he⟩ | ⟨hk, he⟩ <;> rw [he] at h <;> cases h
  · exact .inr ⟨hk, rfl⟩
  · exact .inl ⟨hk, rfl⟩

theorem State.words_of_unseeded {s : State} (h : s.seeded = false) : s.words = none := by
  simpa [State.seeded] using h

/-- A command word run on an idle port is accepted. -/
theorem runCommand_of_idle {c : CmdWord} {q : Port} {s s' : State} (hq : s.port? = some q)
    (hph : q.ctx.ph = .idle) (h : runCommand c s = .next s') :
    ∃ w' q', AcceptStep s.ent c s.words q w' q' ∧ s' = s.afterStep s.active w' q' := by
  have refused {k : CmdClass} (hk : k = classOf (opField c)) (hr : admission k s.seeded ≠ .ok) :
      AcceptStep s.ent c s.words q s.words (q.respond (admission k s.seeded) 0) := by
    subst hk
    exact .refuse hr
  rcases runCommand_cases c s with ⟨hc, hr⟩ | ⟨i, hd, ⟨hc, hr⟩ | ⟨hc, hr⟩ | ⟨hc, hr⟩⟩
  · rw [hr] at h
    simp only [reservedCommand, hq, hph, refuseReserved] at h
    obtain ⟨hk, rfl⟩ | ⟨hk, -⟩ := accept_next h
    · exact ⟨_, _, refused hc.symm hk, rfl⟩
    · cases hk
  · rw [hr, seedCommand_idle hq hph] at h
    obtain ⟨hk, rfl⟩ | ⟨hk, rfl⟩ := accept_next h
    · exact ⟨_, _, refused (hc ▸ cmdClass_of_decode hd) hk, rfl⟩
    · have hw : s.seeded = false := by simpa [admission_ok_iff] using hk
      exact ⟨_, _, .seed hd hc (State.words_of_unseeded hw), rfl⟩
  · rw [hr, readCommand_idle hq hph] at h
    obtain ⟨hk, rfl⟩ | ⟨hk, rfl⟩ := accept_next h
    · exact ⟨_, _, refused (hc ▸ cmdClass_of_decode hd) hk, rfl⟩
    · have hw : s.seeded = true := by simpa [admission_ok_iff] using hk
      exact ⟨_, _, .read hd hc hw, rfl⟩
  · rw [hr, drawCommand_idle hq hph] at h
    obtain ⟨hk, rfl⟩ | ⟨hk, rfl⟩ := accept_next h
    · exact ⟨_, _, refused (hc ▸ cmdClass_of_decode hd) hk, rfl⟩
    · have hw : s.seeded = true := by simpa [admission_ok_iff] using hk
      exact ⟨_, _, .draw hd hc hw, rfl⟩

/-- SNAPSHOT, inverted. -/
theorem snapshotStep_eq_next {q : Port} {s s' : State} (h : snapshotStep q s = .next s') :
    ∃ g, s.words = some g ∧ s' = s.putPort (q.holdSnapshot g) := by
  cases hw : s.words with
  | none => simp [snapshotStep, hw] at h
  | some g =>
    rw [snapshotStep_next hw] at h
    cases h
    exact ⟨g, rfl, rfl⟩

/-- COMMIT, inverted. -/
theorem commitStep_eq_next {finish : Word → Port → Port} {q : Port} {s s' : State}
    (h : commitStep finish q s = .next s') :
    s.words = some q.ctx.snapshot ∧
      s' = (s.putPort (finish (raw q.ctx.snapshot) q)).putWords (next q.ctx.snapshot) ∨
    ∃ g, s.words = some g ∧ g ≠ q.ctx.snapshot ∧ s' = s.putPort (q.setPhase .fetch) := by
  cases hw : s.words with
  | none => simp [commitStep, hw] at h
  | some g =>
    by_cases hg : g = q.ctx.snapshot
    · subst hg
      rw [commitStep_success hw] at h
      cases h
      exact .inl ⟨rfl, rfl⟩
    · rw [commitStep_failure hw hg] at h
      cases h
      exact .inr ⟨g, rfl, hg, rfl⟩

/-- READ, inverted. -/
theorem readStep_eq_next {data : Snapshot → Data} {q : Port} {s s' : State}
    (h : readStep data q s = .next s') : ∃ g, s.words = some g ∧ s' = s.putPort (q.respond .ok (data g)) := by
  cases hw : s.words with
  | none => simp [readStep, hw] at h
  | some g =>
    rw [readStep_next hw] at h
    cases h
    exact ⟨g, rfl, rfl⟩

/-- A phase in which the sequencer of a port has a step (41_advance.md R95). -/
def Phase.inFlight (ph : Phase) : Prop := ph = .fetch ∨ ph = .held ∨ ph = .read

/-- The latched command of a port in `FETCH`, `HELD` or `READ`, run, is a step of its sequencer. -/
theorem runCommand_of_inFlight {q : Port} {s s' : State} (hq : s.port? = some q)
    (hph : q.ctx.ph.inFlight) (h : runCommand q.ctx.cmd s = .next s') :
    ∃ w' q', SequencerStep s.words q w' q' ∧ s' = s.afterStep s.active w' q' := by
  rcases runCommand_cases q.ctx.cmd s with ⟨-, hr⟩ | ⟨i, hd, ⟨hc, hr⟩ | ⟨hc, hr⟩ | ⟨hc, hr⟩⟩ <;> rw [hr] at h
  · rcases hph with hph | hph | hph <;> simp [reservedCommand, hq, hph] at h
  · rcases hph with hph | hph | hph <;> simp [seedCommand, hq, hph] at h
  · rcases hph with hph | hph | hph
    · simp [readCommand, hq, hph] at h
    · simp [readCommand, hq, hph] at h
    · rw [readCommand_read hq hph] at h
      obtain ⟨g, hw, rfl⟩ := readStep_eq_next h
      exact ⟨_, _, .read hph hd hc hw, rfl⟩
  · rcases hph with hph | hph | hph
    · rw [drawCommand_fetch hq hph] at h
      obtain ⟨g, hw, rfl⟩ := snapshotStep_eq_next h
      exact ⟨_, _, .snapshot hph hd hc hw, rfl⟩
    · rw [drawCommand_held hq hph] at h
      obtain ⟨hw, rfl⟩ | ⟨g, hw, hg, rfl⟩ := commitStep_eq_next h
      · exact ⟨_, _, .commit hph hd hc hw, rfl⟩
      · exact ⟨_, _, .retry hph hd hc hw hg, rfl⟩
    · simp [drawCommand, hq, hph] at h

/-- A turn of a requester, inverted. -/
theorem requesterTurn_effect {p : Nat} {s s' : State} (h : runFound (requesterTurn p s) = .next s') :
    TurnEffect s (.requester p) s' := by
  cases hq : s.ports[p]? with
  | none =>
    simp only [requesterTurn, hq, runFound] at h
    cases h
    exact .requesterPasses (by simp [hq])
  | some q =>
    simp only [requesterTurn, hq] at h
    cases hph : q.ctx.ph with
    | idle =>
      cases hc : q.pending with
      | nil =>
        simp only [hph, hc, runFound] at h
        cases h
        exact .requesterPasses (by simp [hq, hph, hc])
      | cons c cs =>
        simp only [hph, hc, runFound] at h
        have hq' : ((s.activate p).putPort (q.take c cs)).port? = some (q.take c cs) :=
          State.port?_putPort (s := s.activate p) (q := q) hq _
        obtain ⟨w', q', hstep, rfl⟩ := runCommand_of_idle hq' (by simpa using hph) h
        have := TurnEffect.requester hq (.accept hph hc hstep)
        simpa [State.afterStep] using this
    | done =>
      simp only [hph, runFound] at h
      cases h
      exact .requester hq (.respond hph)
    | fetch | held | read =>
      simp only [hph, runFound] at h
      cases h
      exact .requesterPasses (by simp [hq, hph])

/-- A turn of a sequencer, inverted. -/
theorem sequencerTurn_effect {p : Nat} {s s' : State} (h : runFound (sequencerTurn p s) = .next s') :
    TurnEffect s (.sequencer p) s' := by
  cases hq : s.ports[p]? with
  | none =>
    simp only [sequencerTurn, hq, runFound] at h
    cases h
    exact .sequencerPasses (by simp [hq])
  | some q =>
    have inFlight (hph : q.ctx.ph.inFlight) (h : runCommand q.ctx.cmd (s.activate p) = .next s') :
        TurnEffect s (.sequencer p) s' := by
      obtain ⟨w', q', hstep, rfl⟩ := runCommand_of_inFlight (s := s.activate p) hq hph h
      exact .sequencer hq hstep
    simp only [sequencerTurn, hq] at h
    cases hph : q.ctx.ph <;> simp only [hph, runFound] at h
    case fetch | held | read => exact inFlight (by simp [hph, Phase.inFlight]) h
    case idle | done =>
      cases h
      exact .sequencerPasses (by simp [hq, hph])

/-- Whatever a turn answers is one of the effects. -/
theorem takeTurn_effect {t : Turn} {s s' : State} (h : takeTurn t s = .next s') : TurnEffect s t s' := by
  cases t with
  | requester p => exact requesterTurn_effect h
  | sequencer p => exact sequencerTurn_effect h
  | reset => cases h; exact .reset
  | drive v => cases h; exact .drive
  | store p i v => cases h; exact .store
  | present p c => cases h; exact .present

end Sys2Proof.Machine
end

section
/-! SUPPORT. The words across a step of a port: they stay, or a seed stores a pair, or a COMMIT advances them
(10_state.md R22, R23); and `next` is undone by `unNext` (10_state.md R36). -/

namespace Sys2Proof.Machine

theorem rotl_eq_rotateLeft (v : Word) {k : Nat} (hk : k < 64) : rotl v k = v.rotateLeft k := by
  simp [rotl, BitVec.rotateLeft_def, Nat.mod_eq_of_lt hk]

/-- Rotations by amounts that add up to the width undo each other. -/
theorem rotl_rotl_cancel (x : Word) {m n : Nat} (hm : 0 < m) (hn : 0 < n) (hmn : m + n = 64) :
    rotl (rotl x m) n = x := by
  rw [rotl_eq_rotateLeft _ (by omega), rotl_eq_rotateLeft _ (by omega)]
  apply BitVec.eq_of_getLsbD_eq
  intro i hi
  simp only [BitVec.getLsbD_rotateLeft, Nat.mod_eq_of_lt (by omega : m < 64),
    Nat.mod_eq_of_lt (by omega : n < 64)]
  by_cases h : i < n
  · have h1 : ¬64 - n + i < m := by omega
    have h2 : 64 - n + i < 64 := by omega
    have h3 : 64 - n + i - m = i := by omega
    simp [h, h1, h2, h3]
  · have h1 : i - n < m := by omega
    have h2 : 64 - m + (i - n) = i := by omega
    simp [h, h1, h2, hi]

theorem xor_xor_cancel (x y z : Word) : x ^^^ y ^^^ z ^^^ y ^^^ z = x := by
  rw [BitVec.xor_assoc x, BitVec.xor_assoc (x ^^^ (y ^^^ z)), BitVec.xor_assoc x, BitVec.xor_self,
    BitVec.xor_zero]

theorem unNext_next (g : Snapshot) : unNext (next g) = g := by
  obtain ⟨a, b⟩ := g
  have hs : rotl (rotl (b ^^^ a) 36) 28 = b ^^^ a := rotl_rotl_cancel _ (by decide) (by decide) rfl
  have ha : rotl (rotl a 55) 9 = a := rotl_rotl_cancel _ (by decide) (by decide) rfl
  simp only [next, unNext, hs, xor_xor_cancel, ha, xor_cancel_right]

theorem next_unNext (g : Snapshot) : next (unNext g) = g := by
  obtain ⟨n0, n1⟩ := g
  have hs (v : Word) : rotl (rotl v 28) 36 = v := rotl_rotl_cancel _ (by decide) (by decide) rfl
  have ha (v : Word) : rotl (rotl v 9) 55 = v := rotl_rotl_cancel _ (by decide) (by decide) rfl
  simp only [next, unNext, xor_cancel_right, ha, xor_xor_cancel, hs]

theorem next_bijective : Function.Bijective next :=
  Function.bijective_iff_has_inverse.mpr ⟨unNext, unNext_next, next_unNext⟩

theorem next_zero : next ⟨0, 0⟩ = ⟨0, 0⟩ := by decide

/-- `next` keeps a pair that is not both zero so: only `(0, 0)` goes to `(0, 0)` (10_state.md R36). -/
theorem next_not_both_zero {g : Snapshot} (h : ¬(g.s0 = 0 ∧ g.s1 = 0)) :
    ¬((next g).s0 = 0 ∧ (next g).s1 = 0) := by
  rintro ⟨h0, h1⟩
  have hz : next g = next ⟨0, 0⟩ := next_zero ▸ congrArg₂ Snapshot.mk h0 h1
  obtain rfl := next_bijective.injective hz
  exact h ⟨rfl, rfl⟩

theorem seed1Words_not_both_zero (seed : Word) :
    ¬((seed1Words seed).s0 = 0 ∧ (seed1Words seed).s1 = 0) := by
  simp only [seed1Words]
  split
  · exact fun h => absurd h.1 (by decide : (1 : Word) ≠ 0)
  · assumption

theorem seed2Words_not_both_zero (a b : Word) :
    ¬((seed2Words a b).s0 = 0 ∧ (seed2Words a b).s1 = 0) := by
  unfold seed2Words
  split
  · exact fun h => absurd h.1 (by decide : (1 : Word) ≠ 0)
  · assumption

/-- No seed stores two zero words (40_seeding.md R83, R84). -/
theorem seedPair_not_both_zero (ent : Word) (i : Instr) :
    ¬((seedPair ent i).s0 = 0 ∧ (seedPair ent i).s1 = 0) := by
  unfold seedPair
  split
  · exact seed1Words_not_both_zero _
  · exact seed2Words_not_both_zero _ _
  · exact seed1Words_not_both_zero _

/-- A requester's step changes the words only by the ACCEPT of a seed before seeding. -/
theorem RequesterStep.words {ent : Word} {w w' : Option Snapshot} {q q' : Port}
    (h : RequesterStep ent w q w' q') :
    w' = w ∨ (w = none ∧ ∃ c cs i, q.ctx.ph = .idle ∧ q.pending = c :: cs ∧
      classOf (opField c) = .seed ∧ w' = some (seedPair ent i)) := by
  cases h with
  | respond => exact .inl rfl
  | accept hph hpend ha =>
    cases ha with
    | refuse | read | draw => exact .inl rfl
    | seed hd hc hw => exact .inr ⟨hw, _, _, _, hph, hpend, cmdClass_of_decode hd ▸ hc, rfl⟩

/-- A sequencer's step changes the words only by a successful COMMIT. -/
theorem SequencerStep.words {w w' : Option Snapshot} {q q' : Port} (h : SequencerStep w q w' q') :
    w' = w ∨ (q.ctx.ph = .held ∧ w = some q.ctx.snapshot ∧ w' = some (next q.ctx.snapshot)) := by
  cases h with
  | snapshot | retry | read => exact .inl rfl
  | commit hph hd hc hw => exact .inr ⟨hph, hw, rfl⟩

end Sys2Proof.Machine
end

section
/-! SUPPORT. Every step of a port keeps the port's own invariant. -/

namespace Sys2Proof.Machine

/-- A draw-class command is `NEXTBYTES`, or makes one draw. -/
theorem draw_kinds {i : Instr} (h : i.cmdClass = .draw) :
    (∃ len, i = .nextBytes len) ∨
    (i.opcode ≠ 0x12 ∧ (∀ q, startDraw i q = q.setPhase .fetch) ∧
      ∀ r, ∃ d, ∀ q, finishDraw i r q = q.respond .ok d) := by
  cases i
  case nextBytes len => exact .inl ⟨len, rfl⟩
  case seed1 | seed2 | seedE | getW0 | getW1 | copy => cases h
  all_goals exact .inr ⟨by simp [Instr.opcode], fun _ => rfl, fun _ => ⟨_, fun _ => rfl⟩⟩

theorem finishDraw_nextBytes (len : Half) : finishDraw (.nextBytes len) = fillBytes := rfl

theorem startDraw_nextBytes (len : Half) : startDraw (.nextBytes len) = startBytes len := rfl

/-! The invariant of a port, phase by phase. -/

section
variable {b : Bool} {q : Port} (hbuf : q.buf.wf)
include hbuf

theorem Port.inv_of_idleCtx (h : q.ctx = Context.idle) : q.Inv b := by
  refine ⟨hbuf, fun _ => h, ?_, ?_, ?_, ?_, ?_⟩ <;> simp [h]

theorem Port.inv_of_drawing (hph : q.ctx.ph = .fetch ∨ q.ctx.ph = .held) (hc : classOf q.ctx.op = .draw)
    (hfill : q.ctx.op = 0x12 → 0 < q.ctx.cnt.toNat ∧ q.ctx.cnt.toNat ≤ (lowHalf q.ctx.a).toNat) :
    q.Inv true := by
  refine ⟨hbuf, ?_, fun _ => ⟨hc, rfl⟩, fun _ => hfill, ?_, ?_, ?_⟩ <;>
    rcases hph with hph | hph <;> simp [hph]

theorem Port.inv_of_reading (hph : q.ctx.ph = .read) (hc : classOf q.ctx.op = .read) : q.Inv true := by
  refine ⟨hbuf, ?_, ?_, ?_, fun _ => ⟨hc, rfl⟩, ?_, ?_⟩ <;> simp [hph]

theorem Port.inv_of_done (hph : q.ctx.ph = .done) (hres : q.ctx.st ≠ .ok → q.ctx.res = 0)
    (hcnt : q.ctx.st = .ok → q.ctx.op = 0x12 → q.ctx.cnt = 0) : q.Inv b := by
  refine ⟨hbuf, ?_, ?_, ?_, ?_, fun _ => hres, fun _ => hcnt⟩ <;> simp [hph]

/-- A port answered `OK` by a command that is no `NEXTBYTES`. -/
theorem Port.inv_of_answered (hop : q.ctx.op ≠ 0x12) (d : Data) : (q.respond .ok d).Inv b :=
  Port.inv_of_done hbuf rfl (fun h => absurd rfl h) fun _ h => absurd h hop

end

/-- The invariant of a port reads its context and its buffer only. -/
theorem Port.Inv.of_ctx_eq {b : Bool} {q q' : Port} (h : q.Inv b) (hctx : q'.ctx = q.ctx)
    (hbuf : q'.buf.wf) : q'.Inv b := by
  obtain ⟨-, hidle, hdraw, hfill, hread, href, hall⟩ := h
  rw [← hctx] at hidle hdraw hfill hread href hall
  exact ⟨hbuf, hidle, hdraw, hfill, hread, href, hall⟩

/-- Seeding the block takes no port's invariant away. -/
theorem Port.Inv.seeded_mono {b b' : Bool} {q : Port} (h : q.Inv b) (hb : b = true → b' = true) :
    q.Inv b' :=
  { h with
    drawing := fun hph => (h.drawing hph).imp_right hb
    reading := fun hph => (h.reading hph).imp_right hb }

theorem opcode_ne_nextBytes {op : BitVec 5} (h : classOf op ≠ .draw) : op ≠ 0x12 := by
  rintro rfl
  exact h (by decide)

/-- The start of an admitted draw, from the port that has latched its word. -/
theorem startDraw_inv {c : CmdWord} {i : Instr} {q : Port} (hbuf : q.buf.wf) (hd : decode c = .ok i)
    (hc : i.cmdClass = .draw) (hop : q.ctx.op = opField c) (ha : q.ctx.a = aField c) :
    (startDraw i q).Inv true := by
  have hclass : classOf q.ctx.op = .draw := by rw [hop, ← cmdClass_of_decode hd, hc]
  obtain ⟨len, rfl⟩ | ⟨hne, hstart, -⟩ := draw_kinds hc
  · have hlen : lowHalf q.ctx.a = len := by rw [ha, ← length_of_decode hd]
    rw [startDraw_nextBytes, startBytes]
    split
    next h0 => exact Port.inv_of_done hbuf rfl (fun _ => rfl) fun _ _ => h0
    next h0 =>
      have hpos : 0 < len.toNat := Nat.pos_of_ne_zero fun h => h0 (BitVec.eq_of_toNat_eq h)
      refine Port.inv_of_drawing hbuf (.inl rfl) hclass fun _ => ⟨hpos, ?_⟩
      simp [hlen]
  · rw [hstart]
    refine Port.inv_of_drawing hbuf (.inl rfl) hclass fun h => absurd ?_ hne
    rw [opcode_of_decode hd, ← hop]
    exact h

/-- ACCEPT, from the port that has latched the word. -/
theorem AcceptStep.inv {ent : Word} {c : CmdWord} {w w' : Option Snapshot} {q q' : Port}
    (h : AcceptStep ent c w q w' q') (hbuf : q.buf.wf) (hop : q.ctx.op = opField c)
    (ha : q.ctx.a = aField c) : q'.Inv w'.isSome := by
  cases h with
  | refuse hst => exact Port.inv_of_done hbuf rfl (fun _ => rfl) fun h => absurd h hst
  | seed hd hc hw =>
    have hclass : classOf q.ctx.op = .seed := by rw [hop, ← cmdClass_of_decode hd, hc]
    exact Port.inv_of_answered hbuf (opcode_ne_nextBytes (by simp [hclass])) 0
  | read hd hc hw =>
    rw [hw]
    exact Port.inv_of_reading hbuf rfl (by rw [Port.setPhase_ctx_op, hop, ← cmdClass_of_decode hd, hc])
  | draw hd hc hw =>
    rw [hw]
    exact startDraw_inv hbuf hd hc hop ha

theorem RequesterStep.inv {ent : Word} {w w' : Option Snapshot} {q q' : Port}
    (h : RequesterStep ent w q w' q') (hq : q.Inv w.isSome) : q'.Inv w'.isSome := by
  cases h with
  | accept hph hpend ha => exact ha.inv hq.bufWf rfl rfl
  | respond hph => exact Port.inv_of_idleCtx hq.bufWf rfl

/-- What one draw leaves of the count: at most what there was (44_bytes_and_state_access.md R141). -/
theorem toNat_sub_drawBytes (cnt : BitVec 32) :
    (cnt - BitVec.ofNat 32 (drawBytes cnt.toNat)).toNat = cnt.toNat - drawBytes cnt.toNat := by
  have hle : drawBytes cnt.toNat ≤ cnt.toNat := Nat.min_le_left _ _
  have hlt := cnt.isLt
  rw [BitVec.toNat_sub, BitVec.toNat_ofNat, Nat.mod_eq_of_lt (by omega : drawBytes cnt.toNat < 2 ^ 32)]
  omega

/-- A COMMIT of a `NEXTBYTES` answers it or leaves it bytes to write. -/
theorem fillBytes_inv {q : Port} (r : Word) (hq : q.Inv true) (hph : q.ctx.ph = .held)
    (hop : q.ctx.op = 0x12) : (fillBytes r q).Inv true := by
  obtain ⟨-, hle⟩ := hq.filling (.inr hph) hop
  have hbuf := Memory.writeAll_byteWrites_wf hq.bufWf q.ctx.cnt r
  simp only [fillBytes]
  split
  next h0 => exact Port.inv_of_done hbuf rfl (fun _ => rfl) fun _ _ => h0
  next h0 =>
    refine Port.inv_of_drawing hbuf (.inl rfl) (hq.drawing (.inr hph)).1 fun _ => ⟨?_, ?_⟩
    · exact Nat.pos_of_ne_zero fun h => h0 (BitVec.eq_of_toNat_eq h)
    · refine le_trans ?_ hle
      exact (toNat_sub_drawBytes q.ctx.cnt).trans_le (Nat.sub_le _ _)

@[simp] theorem opField_cmd (c : Context) : opField c.cmd = c.op := opField_packCmd _ _ _

theorem SequencerStep.inv {w w' : Option Snapshot} {q q' : Port} (h : SequencerStep w q w' q')
    (hq : q.Inv w.isSome) : q'.Inv w'.isSome := by
  cases h with
  | snapshot hph hd hc hw =>
    obtain ⟨hclass, hseeded⟩ := hq.drawing (.inl hph)
    rw [hseeded]
    exact Port.inv_of_drawing hq.bufWf (.inr rfl) hclass (hq.filling (.inl hph))
  | retry hph hd hc hw hne =>
    obtain ⟨hclass, hseeded⟩ := hq.drawing (.inr hph)
    rw [hseeded]
    exact Port.inv_of_drawing hq.bufWf (.inl rfl) hclass (hq.filling (.inr hph))
  | read hph hd hc hw =>
    have hclass := (hq.reading hph).1
    exact Port.inv_of_answered hq.bufWf (opcode_ne_nextBytes (by simp [hclass])) _
  | commit hph hd hc hw =>
    have hop := opcode_of_decode hd
    rw [opField_cmd] at hop
    obtain ⟨len, rfl⟩ | ⟨hne, -, hfinish⟩ := draw_kinds hc
    · rw [finishDraw_nextBytes]
      exact fillBytes_inv _ (hq.seeded_mono fun _ => rfl) hph hop.symm
    · obtain ⟨d, hd'⟩ := hfinish (raw q.ctx.snapshot)
      rw [hd']
      exact Port.inv_of_answered hq.bufWf (hop ▸ hne) d

end Sys2Proof.Machine
end

section
/-! SUPPORT. Every turn keeps the invariant of the state. -/

namespace Sys2Proof.Machine

/-- The invariant after a step of one port: what the words and that port must satisfy. -/
theorem State.Inv.afterStep {s : State} (h : s.Inv) {p : Nat} {w : Option Snapshot} {q : Port}
    (hw : ∀ g, w = some g → ¬(g.s0 = 0 ∧ g.s1 = 0)) (hs : s.seeded = true → w.isSome = true)
    (hq : q.Inv w.isSome) : (s.afterStep p w q).Inv where
  somePort := by simpa using h.somePort
  notBothZero := hw
  eachPort r hr := by
    rcases List.mem_or_eq_of_mem_set hr with hr | rfl
    · exact (h.eachPort r hr).seeded_mono hs
    · exact hq

theorem State.Inv.of_port {s : State} (h : s.Inv) {p : Nat} {q : Port} (hq : s.ports[p]? = some q) :
    q.Inv s.words.isSome :=
  h.eachPort q (List.mem_of_getElem? hq)

/-- The invariant after something a requester does on its own side of a port. -/
theorem State.Inv.atPort {s : State} (h : s.Inv) (p : Nat) {f : Port → Port}
    (hf : ∀ q, q.Inv s.seeded → (f q).Inv s.seeded) : (s.atPort p f).Inv := by
  cases hq : s.ports[p]? with
  | none => rwa [State.atPort_of_none hq]
  | some q =>
    rw [State.atPort_of_port hq]
    refine ⟨by simpa using h.somePort, h.notBothZero, fun r hr => ?_⟩
    rcases List.mem_or_eq_of_mem_set hr with hr | rfl
    · exact h.eachPort r hr
    · exact hf q (h.of_port hq)

theorem resetBlock_inv {s : State} (h : s.Inv) : (resetBlock s).Inv where
  somePort := by simpa using h.somePort
  notBothZero g hg := by cases hg
  eachPort r hr := by
    obtain ⟨q, hq, rfl⟩ := List.mem_map.mp hr
    exact Port.inv_of_idleCtx (h.eachPort q hq).bufWf rfl

theorem State.Inv.requesterStep {s : State} (h : s.Inv) {p : Nat} {q q' : Port} {w' : Option Snapshot}
    (hq : s.ports[p]? = some q) (hstep : RequesterStep s.ent s.words q w' q') :
    (s.afterStep p w' q').Inv := by
  have hinv := hstep.inv (h.of_port hq)
  obtain rfl | ⟨hw, c, cs, i, -, -, -, rfl⟩ := hstep.words
  · exact h.afterStep h.notBothZero id hinv
  · exact h.afterStep (fun g hg => Option.some.inj hg ▸ seedPair_not_both_zero _ i) (fun _ => rfl) hinv

theorem State.Inv.sequencerStep {s : State} (h : s.Inv) {p : Nat} {q q' : Port} {w' : Option Snapshot}
    (hq : s.ports[p]? = some q) (hstep : SequencerStep s.words q w' q') : (s.afterStep p w' q').Inv := by
  have hinv := hstep.inv (h.of_port hq)
  obtain rfl | ⟨-, hw, rfl⟩ := hstep.words
  · exact h.afterStep h.notBothZero id hinv
  · exact h.afterStep (fun g hg => Option.some.inj hg ▸ next_not_both_zero (h.notBothZero _ hw))
      (fun _ => rfl) hinv

theorem TurnEffect.inv {s s' : State} {t : Turn} (h : TurnEffect s t s') (hs : s.Inv) : s'.Inv := by
  cases h with
  | requester hq hstep => exact hs.requesterStep hq hstep
  | sequencer hq hstep => exact hs.sequencerStep hq hstep
  | requesterPasses | sequencerPasses => exact hs
  | reset => exact resetBlock_inv hs
  | drive => exact ⟨hs.somePort, hs.notBothZero, hs.eachPort⟩
  | store => exact hs.atPort _ fun q hq => hq.of_ctx_eq (Port.store_ctx _ _ q) (Port.store_wf hq.bufWf _ _)
  | present => exact hs.atPort _ fun q hq => hq.of_ctx_eq rfl hq.bufWf

/-- Every turn keeps the invariant. -/
theorem takeTurn_inv {t : Turn} {s s' : State} (hs : s.Inv) (h : takeTurn t s = .next s') : s'.Inv :=
  (takeTurn_effect h).inv hs

end Sys2Proof.Machine
end

section
/-! SUPPORT. No turn reads the turns to come (log 1): a machine with another schedule answers the same outcome,
but for the schedule. -/

namespace Sys2Proof.Machine

/-- The state with another schedule. -/
def State.withSchedule (l : List Turn) (s : State) : State := { s with schedule := l }

/-- An outcome with its state changed so. -/
def outcomeWithSchedule (l : List Turn) :
    Host.Outcome State Fault Refusal → Host.Outcome State Fault Refusal
  | .next s => .next (s.withSchedule l)
  | .fault f => .fault f
  | .refused r => .refused r

section
variable (l : List Turn) (s : State)

@[simp] theorem State.withSchedule_words : (s.withSchedule l).words = s.words := rfl
@[simp] theorem State.withSchedule_ports : (s.withSchedule l).ports = s.ports := rfl
@[simp] theorem State.withSchedule_port? : (s.withSchedule l).port? = s.port? := rfl
@[simp] theorem State.withSchedule_ent : (s.withSchedule l).ent = s.ent := rfl

theorem accept_withSchedule {k : CmdClass} {f : Port → State → State}
    (hf : ∀ q s, f q (s.withSchedule l) = (f q s).withSchedule l) (q : Port) :
    accept k f q (s.withSchedule l) = outcomeWithSchedule l (accept k f q s) := by
  obtain ⟨hk, he⟩ | ⟨hk, he⟩ := accept_cases k f q s
  · rw [he, accept_admitted (s := s.withSchedule l) hk, hf]
    rfl
  · rw [he, accept_refused (s := s.withSchedule l) hk]
    rfl

theorem snapshotStep_withSchedule (q : Port) :
    snapshotStep q (s.withSchedule l) = outcomeWithSchedule l (snapshotStep q s) := by
  simp only [snapshotStep, State.withSchedule_words]
  cases s.words <;> rfl

theorem commitStep_withSchedule (finish : Word → Port → Port) (q : Port) :
    commitStep finish q (s.withSchedule l) = outcomeWithSchedule l (commitStep finish q s) := by
  simp only [commitStep, State.withSchedule_words]
  cases s.words with
  | none => rfl
  | some g => by_cases hg : g = q.ctx.snapshot <;> simp only [hg, if_true, if_false] <;> rfl

theorem readStep_withSchedule (data : Snapshot → Data) (q : Port) :
    readStep data q (s.withSchedule l) = outcomeWithSchedule l (readStep data q s) := by
  simp only [readStep, State.withSchedule_words]
  cases s.words <;> rfl

theorem seedCommand_withSchedule (pair : Snapshot) :
    seedCommand pair (s.withSchedule l) = outcomeWithSchedule l (seedCommand pair s) := by
  simp only [seedCommand, State.withSchedule_port?]
  cases s.port? with
  | none => rfl
  | some q =>
    dsimp only
    cases q.ctx.ph
    case idle => exact accept_withSchedule l s (by intros; rfl) q
    all_goals rfl

theorem readCommand_withSchedule (data : Snapshot → Data) :
    readCommand data (s.withSchedule l) = outcomeWithSchedule l (readCommand data s) := by
  simp only [readCommand, State.withSchedule_port?]
  cases s.port? with
  | none => rfl
  | some q =>
    dsimp only
    cases q.ctx.ph
    case idle => exact accept_withSchedule l s (by intros; rfl) q
    case read => exact readStep_withSchedule l s data q
    all_goals rfl

theorem drawCommand_withSchedule (start : Port → Port) (finish : Word → Port → Port) :
    drawCommand start finish (s.withSchedule l) = outcomeWithSchedule l (drawCommand start finish s) := by
  simp only [drawCommand, State.withSchedule_port?]
  cases s.port? with
  | none => rfl
  | some q =>
    dsimp only
    cases q.ctx.ph
    case idle => exact accept_withSchedule l s (by intros; rfl) q
    case fetch => exact snapshotStep_withSchedule l s q
    case held => exact commitStep_withSchedule l s finish q
    all_goals rfl

theorem reservedCommand_withSchedule :
    reservedCommand (s.withSchedule l) = outcomeWithSchedule l (reservedCommand s) := by
  simp only [reservedCommand, State.withSchedule_port?]
  cases s.port? with
  | none => rfl
  | some q =>
    dsimp only
    cases q.ctx.ph
    case idle => exact accept_withSchedule l s (by intros; rfl) q
    all_goals rfl

theorem exec_withSchedule (i : Instr) :
    exec i (s.withSchedule l) = outcomeWithSchedule l (exec i s) := by
  cases hc : i.cmdClass with
  | seed => rw [exec_of_seed hc, exec_of_seed hc, seedCommand_withSchedule, State.withSchedule_ent]
  | read => rw [exec_of_read hc, exec_of_read hc, readCommand_withSchedule]
  | draw => rw [exec_of_draw hc, exec_of_draw hc, drawCommand_withSchedule]
  | reserved => exact absurd hc (cmdClass_ne_reserved i)

theorem runCommand_withSchedule (c : CmdWord) :
    runCommand c (s.withSchedule l) = outcomeWithSchedule l (runCommand c s) := by
  simp only [runCommand]
  cases decode c with
  | ok i => exact exec_withSchedule l s i
  | error e => exact reservedCommand_withSchedule l s

theorem runFound_requesterTurn_withSchedule (p : Nat) :
    runFound (requesterTurn p (s.withSchedule l)) = outcomeWithSchedule l (runFound (requesterTurn p s)) := by
  simp only [requesterTurn, State.withSchedule_ports]
  cases s.ports[p]? with
  | none => rfl
  | some q =>
    dsimp only
    cases q.ctx.ph
    case idle =>
      cases q.pending with
      | nil => rfl
      | cons c cs => exact runCommand_withSchedule l ((s.activate p).putPort (q.take c cs)) c
    all_goals rfl

theorem runFound_sequencerTurn_withSchedule (p : Nat) :
    runFound (sequencerTurn p (s.withSchedule l)) = outcomeWithSchedule l (runFound (sequencerTurn p s)) := by
  simp only [sequencerTurn, State.withSchedule_ports]
  cases s.ports[p]? with
  | none => rfl
  | some q =>
    dsimp only
    cases q.ctx.ph
    case fetch | held | read => exact runCommand_withSchedule l (s.activate p) q.ctx.cmd
    all_goals rfl

/-- A turn of a machine with another schedule. -/
theorem takeTurn_withSchedule (t : Turn) :
    takeTurn t (s.withSchedule l) = outcomeWithSchedule l (takeTurn t s) := by
  cases t with
  | requester p => exact runFound_requesterTurn_withSchedule l s p
  | sequencer p => exact runFound_sequencerTurn_withSchedule l s p
  | reset | drive | store | present => rfl

end

/-- The steps of a machine whose schedule begins with these turns. -/
theorem core_run_withSchedule (ts rest : List Turn) (s : State) :
    core.run ts.length (s.withSchedule (ts ++ rest)) = run ts (s.withSchedule rest) := by
  induction ts generalizing s with
  | nil => rfl
  | cons t ts ih =>
    have hstep : core.step (s.withSchedule (t :: ts ++ rest)) =
        outcomeWithSchedule (ts ++ rest) (takeTurn t s) := takeTurn_withSchedule (ts ++ rest) s t
    simp only [List.length_cons, Host.Core.run, hstep, run, takeTurn_withSchedule]
    cases takeTurn t s with
    | next s' => exact ih s'
    | fault f => rfl
    | refused r => rfl

end Sys2Proof.Machine
end

section
/-! SUPPORT. The statements about the state (10_state.md), settled. -/

open Sys2Proof Sys2Proof.Machine

/-- Settles O48: the step is the turn the schedule begins with, and every turn keeps the invariant. -/
theorem stepKeepsTheInvariant : Obligations.StepKeepsTheInvariant := by
  intro s s' hs h
  unfold step at h
  split at h
  · cases h
    exact hs
  · refine takeTurn_inv ?_ h
    exact ⟨hs.somePort, hs.notBothZero, hs.eachPort⟩

/-- Settles O47: a reset block has no words, and every port of it is idle with an empty buffer. -/
theorem resetHasTheInvariant : Obligations.ResetHasTheInvariant := by
  have hreset : ∀ n, 1 ≤ n → (State.resetWith n).Inv := by
    intro n hn
    refine ⟨?_, (fun g hg => by cases hg), fun q hq => ?_⟩
    · exact fun h => by simp [State.resetWith] at h; omega
    · obtain rfl := List.eq_of_mem_replicate hq
      exact Port.inv_of_idleCtx (by simp [Port.reset, Memory.wf]) rfl
  exact ⟨hreset, hreset _ (by decide)⟩

/-- Settles O15: `unNext` undoes `next` on both sides. -/
theorem nextIsABijectionAndKeepsNonZero : Obligations.NextIsABijectionAndKeepsNonZero := by
  refine ⟨fun n0 n1 a b h => ?_, next_bijective, next_zero, fun _ => next_not_both_zero⟩
  have hundo : unNext ⟨n0, n1⟩ = ⟨a, b⟩ := h ▸ unNext_next _
  simp only [unNext, Snapshot.mk.injEq, rotl_eq_rotateLeft _ (by decide : 28 < 64),
    rotl_eq_rotateLeft _ (by decide : 9 < 64)] at hundo
  obtain ⟨ha, hb⟩ := hundo
  exact ⟨ha.symm, by rw [← hb, ha]⟩

/-- Settles O50, by the effects of a turn: RESET, or a step of a port that changes the words. -/
theorem onlySeedCommitAndResetWriteTheWords : Obligations.OnlySeedCommitAndResetWriteTheWords := by
  intro t s s' h hne
  cases takeTurn_effect h with
  | requester hq hstep =>
    obtain hw | ⟨hw, c, cs, i, hph, hpend, hclass, hw'⟩ := hstep.words
    · exact absurd hw hne
    · exact .inr (.inl ⟨_, _, c, cs, rfl, hq, hph, hpend, hclass, hw, by simp [hw']⟩)
  | @sequencer p q _ _ hq hstep =>
    obtain hw | ⟨hph, hw, hw'⟩ := hstep.words
    · exact absurd hw hne
    · exact .inr (.inr ⟨p, q.ctx.snapshot, by simp [drawOfTurn, hq, hw, hph], hw, hw'⟩)
  | reset => exact .inl rfl
  | requesterPasses | sequencerPasses | drive | store | present => exact absurd rfl hne

/-- Settles O51, by the effects of a turn: a step of port `p` writes that port, and neither inputs nor the
number of ports. -/
theorem portsArePrivate : Obligations.PortsArePrivate := by
  intro t p k s s' ht hk h
  rcases ht with rfl | rfl | ⟨c, rfl⟩ | ⟨i, v, rfl⟩ <;> cases takeTurn_effect h
  case inl.requester | inr.inl.sequencer => simp [Ne.symm hk]
  case inl.requesterPasses | inr.inl.sequencerPasses => exact ⟨rfl, rfl, rfl, rfl⟩
  all_goals exact ⟨State.atPort_other _ _ hk, State.atPort_nports .., rfl, rfl⟩

/-- Settles O10: each step takes the first turn of the schedule, and no turn reads the rest of it. -/
theorem stepsAreTheTurnsOfTheSchedule : Obligations.StepsAreTheTurnsOfTheSchedule :=
  core_run_withSchedule
end

section
/-! SUPPORT. The draws of a run (20_memory.md R50, R51): a turn other than RESET makes no draw and leaves the words,
or draws at the position they stand at and moves them one on. -/

namespace Sys2Proof.Machine

/-- A turn of a sequencer that makes a step draws exactly when the step is a successful COMMIT, and the words move
on with it. -/
theorem SequencerStep.draw {s : State} {p : Nat} {q q' : Port} {w' : Option Snapshot} {g : Snapshot}
    (hq : s.ports[p]? = some q) (hw : s.words = some g) (h : SequencerStep s.words q w' q') :
    drawOfTurn (.sequencer p) s = none ∧ w' = some g ∨
    drawOfTurn (.sequencer p) s = some (p, raw g) ∧ w' = some (next g) := by
  cases h with
  | snapshot hph | read hph => exact .inl ⟨by simp [drawOfTurn, hq, hw, hph], hw⟩
  | retry hph _ _ hw' hne =>
    obtain rfl : g = _ := Option.some.inj (hw.symm.trans hw')
    exact .inl ⟨by simp [drawOfTurn, hq, hw, hne], hw⟩
  | commit hph _ _ hw' =>
    obtain rfl : g = _ := Option.some.inj (hw.symm.trans hw')
    exact .inr ⟨by simp [drawOfTurn, hq, hw, hph], rfl⟩

/-- A turn that passes makes no draw. -/
theorem drawOfTurn_eq_none_of_passes {p : Nat} {s : State}
    (h : ∀ q, s.ports[p]? = some q → q.ctx.ph = .idle ∨ q.ctx.ph = .done) :
    drawOfTurn (.sequencer p) s = none := by
  cases hq : s.ports[p]? with
  | none => simp [drawOfTurn, hq]
  | some q =>
    have hph : q.ctx.ph ≠ .held := by rcases h q hq with hph | hph <;> simp [hph]
    cases hw : s.words <;> simp [drawOfTurn, hq, hw, hph]

/-- A turn of a seeded block, other than RESET, moves the words on by the draws it makes, which are one or none. -/
theorem takeTurn_draw {t : Turn} {s s' : State} {g : Snapshot} (ht : t ≠ .reset) (hw : s.words = some g)
    (h : takeTurn t s = .next s') :
    drawOfTurn t s = none ∧ s'.words = some g ∨
    ∃ p, drawOfTurn t s = some (p, raw g) ∧ s'.words = some (next g) := by
  cases takeTurn_effect h with
  | requester hq hstep =>
    obtain hw' | ⟨hnone, -⟩ := hstep.words
    · exact .inl ⟨rfl, hw'.trans hw⟩
    · simp [hw] at hnone
  | sequencer hq hstep => exact (hstep.draw hq hw).imp_right fun hd => ⟨_, hd⟩
  | sequencerPasses hph => exact .inl ⟨drawOfTurn_eq_none_of_passes hph, hw⟩
  | requesterPasses | drive | store | present => exact .inl ⟨rfl, hw⟩
  | reset => exact absurd rfl ht

/-- A run of a turn and others is that turn, and the run of the others from where it leads. -/
theorem run_cons_eq_next {t : Turn} {ts : List Turn} {s s' : State} :
    run (t :: ts) s = .next s' ↔ ∃ u, takeTurn t s = .next u ∧ run ts u = .next s' := by
  cases h : takeTurn t s <;> simp [run, h]

/-- The draws of a run are those of its first turn, then those of the others. -/
theorem drawsOf_cons {t : Turn} {s u : State} (h : takeTurn t s = .next u) (ts : List Turn) :
    drawsOf (t :: ts) s = (drawOfTurn t s).toList ++ drawsOf ts u := by
  cases hd : drawOfTurn t s <;> simp [drawsOf, h, hd]

/-- The raw values of the first `n` states of the sequence from `g` (20_memory.md R50). -/
def rawSequence (n : Nat) (g : Snapshot) : List Word := (List.range n).map fun k => raw (nextN k g)

theorem rawSequence_succ (n : Nat) (g : Snapshot) :
    rawSequence (n + 1) g = raw g :: rawSequence n (next g) := by
  simp [rawSequence, List.range_succ_eq_map, nextN]

/-- A run of a seeded block without RESET draws the sequence from the words on, and leaves them behind it. -/
theorem run_draws {ts : List Turn} {s s' : State} {g : Snapshot} (hts : Turn.reset ∉ ts)
    (hw : s.words = some g) (h : run ts s = .next s') :
    (drawsOf ts s).map Prod.snd = rawSequence (drawsOf ts s).length g ∧
    s'.words = some (nextN (drawsOf ts s).length g) := by
  induction ts generalizing s g with
  | nil =>
    cases h
    exact ⟨rfl, hw⟩
  | cons t ts ih =>
    have ht := List.ne_of_not_mem_cons hts
    replace hts := List.not_mem_of_not_mem_cons hts
    obtain ⟨u, hturn, hrun⟩ := run_cons_eq_next.mp h
    rw [drawsOf_cons hturn]
    obtain ⟨hd, hu⟩ | ⟨p, hd, hu⟩ := takeTurn_draw (Ne.symm ht) hw hturn
    · simpa [hd] using ih hts hu hrun
    · obtain ⟨hdraws, hwords⟩ := ih hts hu hrun
      simp [hd, rawSequence_succ, hdraws, hwords, nextN]

end Sys2Proof.Machine
end

section
/-! SUPPORT. The buffer across a turn (20_memory.md R40): it stays, or a COMMIT of a `NEXTBYTES` fills it, or its
requester stores into it. -/

namespace Sys2Proof.Machine

/-- The buffer after a COMMIT of a `NEXTBYTES`: the bytes of the draw are written (44_bytes_and_state_access.md
R141). -/
@[simp] theorem fillBytes_buf (r : Word) (q : Port) :
    (fillBytes r q).buf = Memory.writeAll q.buf (byteWrites q.ctx.cnt.toNat r) := by
  unfold fillBytes
  dsimp only
  split <;> rfl

@[simp] theorem startBytes_buf (len : Half) (q : Port) : (startBytes len q).buf = q.buf := by
  unfold startBytes
  split <;> rfl

@[simp] theorem startDraw_buf (i : Instr) (q : Port) : (startDraw i q).buf = q.buf := by
  cases i
  case nextBytes len => exact startBytes_buf len q
  all_goals rfl

/-- No step of a requester writes its buffer: RESPOND takes the response, ACCEPT latches a command. -/
theorem RequesterStep.buf {ent : Word} {w w' : Option Snapshot} {q q' : Port}
    (h : RequesterStep ent w q w' q') : q'.buf = q.buf := by
  cases h with
  | respond => rfl
  | accept _ _ ha =>
    cases ha with
    | refuse | seed | read => rfl
    | draw => exact startDraw_buf _ _

/-- A sequencer's step leaves the buffer, or is a successful COMMIT of a `NEXTBYTES`. -/
theorem SequencerStep.buf {w w' : Option Snapshot} {q q' : Port} (h : SequencerStep w q w' q') :
    q'.buf = q.buf ∨
    q.ctx.ph = .held ∧ q.ctx.op = 0x12 ∧ w = some q.ctx.snapshot ∧
      q'.buf = q.buf.writeAll (byteWrites q.ctx.cnt.toNat (raw q.ctx.snapshot)) := by
  cases h with
  | snapshot | retry | read => exact .inl rfl
  | commit hph hd hc hw =>
    obtain ⟨len, rfl⟩ | ⟨-, -, hfinish⟩ := draw_kinds hc
    · have hop := (opcode_of_decode hd).symm.trans (rfl : (Instr.nextBytes len).opcode = 0x12)
      exact .inr ⟨hph, opField_cmd _ ▸ hop, hw, fillBytes_buf _ _⟩
    · obtain ⟨d, hd'⟩ := hfinish (raw q.ctx.snapshot)
      exact .inl (by rw [hd']; rfl)

/-- A port after a step of port `p` is that of the step, or the port before. -/
theorem State.afterStep_port {s : State} {p k : Nat} {w : Option Snapshot} {r q q' : Port}
    (hk : s.ports[k]? = some q) (hk' : (s.afterStep p w r).ports[k]? = some q') :
    k = p ∧ q' = r ∨ q' = q := by
  by_cases hkp : p = k
  · subst hkp
    have hlt := (List.getElem?_eq_some_iff.mp hk).1
    exact .inl ⟨rfl, by simpa [hlt] using hk'.symm⟩
  · exact .inr (by simpa [hkp, hk] using hk'.symm)

/-- A port after something the requester of port `p` does is that port so changed, or the port before. -/
theorem State.atPort_port {s : State} {p k : Nat} {f : Port → Port} {q q' : Port}
    (hk : s.ports[k]? = some q) (hk' : (s.atPort p f).ports[k]? = some q') :
    k = p ∧ q' = f q ∨ q' = q := by
  by_cases hkp : p = k
  · subst hkp
    exact .inl ⟨rfl, by simpa [hk] using hk'.symm⟩
  · exact .inr (by simpa [hkp, hk] using hk'.symm)

/-- What a turn does to the buffer of a port. -/
theorem takeTurn_buf {t : Turn} {k : Nat} {s s' : State} {q q' : Port} (h : takeTurn t s = .next s')
    (hk : s.ports[k]? = some q) (hk' : s'.ports[k]? = some q') :
    q'.buf = q.buf ∨
    (t = .sequencer k ∧ q.ctx.ph = .held ∧ q.ctx.op = 0x12 ∧ s.words = some q.ctx.snapshot ∧
      q'.buf = q.buf.writeAll (byteWrites q.ctx.cnt.toNat (raw q.ctx.snapshot))) ∨
    ∃ i v, t = .store k i v ∧ q' = q.store i v := by
  cases takeTurn_effect h with
  | requester hq hstep =>
    obtain ⟨rfl, rfl⟩ | rfl := State.afterStep_port hk hk'
    · obtain rfl := Option.some.inj (hk.symm.trans hq)
      exact .inl hstep.buf
    · exact .inl rfl
  | sequencer hq hstep =>
    obtain ⟨rfl, rfl⟩ | rfl := State.afterStep_port hk hk'
    · obtain rfl := Option.some.inj (hk.symm.trans hq)
      exact hstep.buf.imp_right fun hfill => .inl ⟨rfl, hfill⟩
    · exact .inl rfl
  | store =>
    obtain ⟨rfl, rfl⟩ | rfl := State.atPort_port hk hk'
    · exact .inr (.inr ⟨_, _, rfl, rfl⟩)
    · exact .inl rfl
  | present =>
    obtain ⟨rfl, rfl⟩ | rfl := State.atPort_port hk hk'
    · exact .inl rfl
    · exact .inl rfl
  | reset =>
    simp only [resetBlock_ports, List.getElem?_map, hk, Option.map_some, Option.some.injEq] at hk'
    subst hk'
    exact .inl rfl
  | requesterPasses | sequencerPasses | drive =>
    obtain rfl : q = q' := Option.some.inj (hk.symm.trans hk')
    exact .inl rfl

/-- A byte that the writes of one draw change lies below the count. -/
theorem lt_count_of_read_byteWrites_ne {m : Memory} {cnt : Nat} {r : Word} {idx : Nat}
    (h : Memory.read (Memory.writeAll m (byteWrites cnt r)) idx ≠ Memory.read m idx) : idx < cnt := by
  by_contra hle
  refine h (Memory.read_writeAll_other m _ fun c hc => ?_)
  have := (byteWrites_index hc).2
  omega

/-- A byte that the command in flight has written already (70_reset_and_hazards.md R189). -/
theorem Context.written_iff (c : Context) (i : Nat) :
    c.written i = true ↔ c.op = 0x12 ∧ c.cnt.toNat ≤ i ∧ i < (lowHalf c.a).toNat ∧
      (c.ph = .fetch ∨ c.ph = .held ∨ c.ph = .done ∧ c.st = .ok) := by
  cases hph : c.ph <;> simp [Context.written, hph, and_assoc]

theorem lowHalf_eq_setWidth (v : Word) : lowHalf v = v.setWidth 32 :=
  (BitVec.setWidth_eq_extractLsb' (by decide)).symm

end Sys2Proof.Machine
end

section
/-! SUPPORT. The statements about the sequence and the buffers (20_memory.md), settled. -/

open Sys2Proof Sys2Proof.Machine

/-- Settles O53, by induction on the run: each turn moves the words on by the draws it makes. -/
theorem drawsFollowTheSequence : Obligations.DrawsFollowTheSequence :=
  fun _ _ _ _ hts hw h => run_draws hts hw h

/-- Settles O52, by the effects of a turn on a buffer: a COMMIT of a `NEXTBYTES` writes below its count, which
the invariant bounds by its length; a store writes its index where the command has not. -/
theorem onlyNextBytesWritesItsBuffer : Obligations.OnlyNextBytesWritesItsBuffer := by
  intro t k idx s s' q q' hs h hk hk' hne
  obtain hbuf | ⟨rfl, hph, hop, hw, hbuf⟩ | ⟨i, v, rfl, rfl⟩ := takeTurn_buf h hk hk'
  · exact absurd (by rw [hbuf]) hne
  · rw [hbuf] at hne
    have hcnt := lt_count_of_read_byteWrites_ne hne
    obtain ⟨-, hlen⟩ := (hs.of_port hk).filling (.inr hph) hop
    rw [lowHalf_eq_setWidth] at hlen
    exact .inl ⟨rfl, hph, hop, hw, hcnt, hcnt.trans_le hlen⟩
  · have hread := Port.store_read i v q idx
    split at hread
    next hidx =>
      obtain ⟨rfl, hfree⟩ := hidx
      refine .inr ⟨i, v, rfl, rfl, hread, ?_⟩
      rw [← lowHalf_eq_setWidth, ← Context.written_iff, hfree]
      exact Bool.false_ne_true
    next => exact absurd hread hne
end

section
/-! SUPPORT. The decoder (30_encoding.md R60 to R67): an operand in its field is the one the decoder reads there,
and the opcode says whether a word is a command. -/

namespace Sys2Proof.Machine

theorem lowFive_eq_setWidth (v : Word) : lowFive v = v.setWidth 5 :=
  (BitVec.setWidth_eq_extractLsb' (by decide)).symm

@[simp] theorem lowFive_fiveOperand (v : BitVec 5) : lowFive (fiveOperand v) = v := by
  rw [lowFive_eq_setWidth, fiveOperand, BitVec.setWidth_setWidth_of_le _ (by decide), BitVec.setWidth_eq]

@[simp] theorem lowHalf_halfOperand (v : Half) : lowHalf (halfOperand v) = v := by
  rw [lowHalf_eq_setWidth, halfOperand, BitVec.setWidth_setWidth_of_le _ (by decide), BitVec.setWidth_eq]

/-! The commands that read only a part of an operand field (R64). -/

theorem decodeFields_nextBits (a b : Word) : decodeFields 0x0A a b = .ok (.nextBits (lowFive a)) := rfl

theorem decodeFields_nextIntB (a b : Word) : decodeFields 0x0C a b = .ok (.nextIntB (lowHalf a)) := rfl

theorem decodeFields_nextIntR (a b : Word) :
    decodeFields 0x0D a b = .ok (.nextIntR (lowHalf a) (lowHalf b)) := rfl

theorem decodeFields_nextBytes (a b : Word) : decodeFields 0x12 a b = .ok (.nextBytes (lowHalf a)) := rfl

/-- The opcode and the operands of a command name it. -/
theorem decodeFields_operands (i : Instr) : decodeFields i.opcode i.operandA i.operandB = .ok i := by
  cases i
  case nextBits n => rw [Instr.opcode, Instr.operandA, decodeFields_nextBits, lowFive_fiveOperand]
  case nextIntB bound => rw [Instr.opcode, Instr.operandA, decodeFields_nextIntB, lowHalf_halfOperand]
  case nextIntR lo hi =>
    rw [Instr.opcode, Instr.operandA, Instr.operandB, decodeFields_nextIntR, lowHalf_halfOperand,
      lowHalf_halfOperand]
  case nextBytes len => rw [Instr.opcode, Instr.operandA, decodeFields_nextBytes, lowHalf_halfOperand]
  all_goals rfl

theorem decode_encode (i : Instr) : decode (encode i) = .ok i := by
  rw [encode, decode_packCmd, decodeFields_operands]

/-- The step of a word depends on nothing but what the word decodes to. -/
theorem runCommand_packCmd_congr {op : BitVec 5} {a a' b b' : Word}
    (h : decodeFields op a b = decodeFields op a' b') (s : State) :
    runCommand (packCmd op a b) s = runCommand (packCmd op a' b') s := by
  simp only [runCommand, decode_packCmd, h]

/-- The reserved opcodes (30_encoding.md R66). -/
theorem classOf_eq_reserved_iff (op : BitVec 5) :
    classOf op = .reserved ↔ op.toNat ∈ [0x00, 0x07] ∨ 0x13 ≤ op.toNat := by
  revert op
  decide

theorem exists_decode_error_iff (c : CmdWord) :
    (∃ e, decode c = .error e) ↔ classOf (opField c) = .reserved := by
  refine ⟨fun ⟨e, he⟩ => classOf_of_decode_error he, fun hc => ?_⟩
  cases hd : decode c with
  | ok i => exact absurd (cmdClass_of_decode hd ▸ hc) (cmdClass_ne_reserved i)
  | error e => exact ⟨e, rfl⟩

theorem error_of_decodeFields {op : BitVec 5} {a b : Word} {e : DecodeError}
    (h : decodeFields op a b = .error e) : e = .reservedOpcode op := by
  revert h
  fun_cases decodeFields op a b <;> rintro ⟨⟩
  rfl

end Sys2Proof.Machine
end

section
/-! SUPPORT. The assembler (30_encoding.md R73). -/

namespace Sys2Proof.Machine

theorem assemble_of_wellFormed {o : AsmOp} (h : o.wellFormed = true) :
    assemble o = some (encode (asmInstr o)) :=
  if_pos h

/-- An integer in the signed range of a field fits it, and its two's complement there stands for it. -/
theorem fitsField_and_toInt_ofInt {n : Nat} {v : Int} (hlo : -2 ^ n ≤ v) (hhi : v < 2 ^ n) :
    fitsField (n + 1) v = true ∧ (BitVec.ofInt (n + 1) v).toInt = v := by
  refine ⟨?_, BitVec.toInt_ofInt_eq_self n.succ_pos hlo hhi⟩
  have hpos : (0 : Int) < 2 ^ n := by positivity
  simp only [fitsField, Bool.and_eq_true, decide_eq_true_eq, pow_succ]
  omega

/-- `n - 1` for an `n` of 1 to 32 is stored in five bits as it is. -/
theorem fiveOperand_ofInt_pred {n : Nat} (h1 : 1 ≤ n) (h2 : n ≤ 32) :
    fiveOperand (BitVec.ofInt 5 (n - 1)) = BitVec.ofNat 64 (n - 1) := by
  rw [← Nat.cast_pred h1, BitVec.ofInt_natCast, fiveOperand]
  apply BitVec.eq_of_toNat_eq
  simp only [BitVec.toNat_setWidth, BitVec.toNat_ofNat]
  omega

end Sys2Proof.Machine
end

section
/-! SUPPORT. What a successful COMMIT of `NEXTBYTES` leaves in the buffer (44_bytes_and_state_access.md R141), and
what READ answers (R144). -/

namespace Sys2Proof.Machine

/-- After writes at distinct indices each of their bytes is there. -/
theorem Memory.read_writeAll_of_mem {ws : List Host.Cell} (hws : (ws.map Prod.fst).Nodup) {i : Nat}
    {v : Byte} (h : (i, v) ∈ ws) (m : Memory) : Memory.read (Memory.writeAll m ws) i = some v := by
  induction ws generalizing m with
  | nil => cases h
  | cons c ws ih =>
    obtain ⟨hc, hws⟩ := List.nodup_cons.mp hws
    rcases List.mem_cons.mp h with rfl | h
    · have hother : ∀ d ∈ ws, d.1 ≠ i := fun d hd hdi => hc (List.mem_map.mpr ⟨d, hd, hdi⟩)
      rw [Memory.writeAll, Memory.read_writeAll_other _ _ hother, Memory.read_write_same]
    · exact ih hws h _

/-- One draw writes no index twice. -/
theorem byteWrites_nodup (cnt : Nat) (r : Word) : ((byteWrites cnt r).map Prod.fst).Nodup := by
  rw [byteWrites, List.map_map]
  refine List.Nodup.map_on (fun i hi j hj h => ?_) List.nodup_range
  simp only [List.mem_range, drawBytes, Function.comp_apply] at hi hj h
  omega

/-- Byte `j` of a draw goes to the index `j` below the last one not yet written. -/
theorem Memory.read_byteWrites (m : Memory) {cnt j : Nat} (r : Word) (hj : j < drawBytes cnt) :
    Memory.read (Memory.writeAll m (byteWrites cnt r)) (cnt - 1 - j) = some (byteOf r j) :=
  Memory.read_writeAll_of_mem (byteWrites_nodup cnt r) (List.mem_map_of_mem (List.mem_range.mpr hj)) m

/-- Every other byte stays. -/
theorem Memory.read_byteWrites_other (m : Memory) {cnt k : Nat} (r : Word)
    (hk : k < cnt - drawBytes cnt ∨ cnt ≤ k) :
    Memory.read (Memory.writeAll m (byteWrites cnt r)) k = Memory.read m k := by
  refine Memory.read_writeAll_other m _ fun c hc => ?_
  have hindex := byteWrites_index hc
  omega

theorem exec_of_draw_held {i : Instr} {s : State} {q : Port} (hc : i.cmdClass = .draw)
    (hq : s.port? = some q) (hph : q.ctx.ph = .held) (hw : s.words = some q.ctx.snapshot) :
    exec i s =
      .next ((s.putPort (finishDraw i (raw q.ctx.snapshot) q)).putWords (next q.ctx.snapshot)) := by
  rw [exec_of_draw hc, drawCommand_held hq hph, commitStep_success hw]

theorem readAnswers_readData {i : Instr} (h : i.cmdClass = .read) : ReadAnswers i (readData i) := by
  intro s q g hq hph hw
  rw [exec_of_read h, readCommand_read hq hph, readStep_next hw]

end Sys2Proof.Machine
end

section
/-! SUPPORT. The statements about the encoding (30_encoding.md) and the operands it carries, settled. -/

open Sys2Proof Sys2Proof.Machine

/-- Settles O1: each operand is read back from the field it is written in. -/
theorem decodeOfEncodeIsTheCommand : Obligations.DecodeOfEncodeIsTheCommand := decode_encode

/-- Settles O2: words that differ in unread bits only decode to the same command. -/
theorem unreadOperandBitsChangeNothing : Obligations.UnreadOperandBitsChangeNothing := by
  intro a a' b b' s
  simp only [← lowFive_eq_setWidth, ← lowHalf_eq_setWidth]
  refine ⟨fun op hop => runCommand_packCmd_congr ?_ s, fun op hop => runCommand_packCmd_congr ?_ s,
    fun ha => runCommand_packCmd_congr ?_ s,
    fun ha => ⟨runCommand_packCmd_congr ?_ s, runCommand_packCmd_congr ?_ s⟩,
    fun ha hb => runCommand_packCmd_congr ?_ s⟩
  · fin_cases hop <;> rfl
  · fin_cases hop <;> rfl
  · rw [decodeFields_nextBits, decodeFields_nextBits, ha]
  · rw [decodeFields_nextIntB, decodeFields_nextIntB, ha]
  · rw [decodeFields_nextBytes, decodeFields_nextBytes, ha]
  · rw [decodeFields_nextIntR, decodeFields_nextIntR, ha, hb]

/-- Settles O3: the decoder refuses the words of a reserved opcode, and its one error carries the opcode. -/
theorem reservedOpcodesAreExactlyTheFifteen : Obligations.ReservedOpcodesAreExactlyTheFifteen :=
  fun c => ⟨((exists_decode_error_iff c).trans (classOf_eq_reserved_iff _)).symm,
    fun _ => error_of_decodeFields⟩

/-- Settles O5: the operands in range are accepted, and the word is the encoding of the command they name. -/
theorem assemblerStoresOperands : Obligations.AssemblerStoresOperands := by
  refine ⟨fun n hn => ?_, fun n h1 h2 => ?_, fun v hlo hhi => ?_, fun v hlo hhi => ?_,
    fun lo hi hlo hlo' hhi hhi' => ?_, fun lo hi hlo hlo' hhi hhi' => ?_⟩
  · exact if_neg (by simpa [AsmOp.wellFormed] using hn)
  · have hwf : (AsmOp.nextBits n).wellFormed = true := by simp [AsmOp.wellFormed, h1, h2]
    rw [assemble_of_wellFormed hwf, ← fiveOperand_ofInt_pred h1 h2]
    rfl
  case refine_3 | refine_4 =>
    obtain ⟨hfit, hv⟩ := fitsField_and_toInt_ofInt hlo hhi
    exact ⟨_, hv, assemble_of_wellFormed hfit⟩
  case refine_5 | refine_6 =>
    obtain ⟨hfitLo, hl⟩ := fitsField_and_toInt_ofInt hlo hlo'
    obtain ⟨hfitHi, hh⟩ := fitsField_and_toInt_ofInt hhi hhi'
    exact ⟨_, _, hl, hh, assemble_of_wellFormed (Bool.and_eq_true_iff.mpr ⟨hfitLo, hfitHi⟩)⟩

/-- Settles O38: the COMMIT writes the bytes of its draw, which are the ones just below the count. -/
theorem nextBytesFillsFromTheEnd : Obligations.NextBytesFillsFromTheEnd := by
  refine ⟨fun a b => ?_, ?_⟩
  · rw [decode_packCmd, decodeFields_nextBytes, lowHalf_eq_setWidth]
  · rintro len s q _ _ hq hph hw rfl - rfl
    refine ⟨_, _, toNat_sub_drawBytes q.ctx.cnt, fun j hj => Memory.read_byteWrites q.buf _ hj,
      fun k hk => Memory.read_byteWrites_other q.buf _ hk, ?_⟩
    rw [exec_of_draw_held rfl hq hph hw, finishDraw_nextBytes, fillBytes]
    congr 3
    split <;> rfl

/-- Settles O4: the decoder, run on the ten words. -/
theorem sampleWordsDecode : Obligations.SampleWordsDecode := by
  unfold Obligations.SampleWordsDecode
  decide

/-- Settles O6: the response word is the status code joined to the data. -/
theorem responseWordHasStatusAndData : Obligations.ResponseWordHasStatusAndData :=
  ⟨fun _ => ⟨BitVec.extractLsb'_append_eq_left, BitVec.extractLsb'_append_eq_right⟩, rfl, rfl, rfl, rfl⟩

/-- Settles O22: the opcodes decode whatever the operands are, and READ answers the data of the command. -/
theorem readsAnswerTheStateWords : Obligations.ReadsAnswerTheStateWords := by
  refine ⟨fun a b => ?_, readAnswers_readData (i := .copy) rfl, readAnswers_readData (i := .getW0) rfl,
    readAnswers_readData (i := .getW1) rfl⟩
  simp only [decode_packCmd]
  exact ⟨rfl, rfl, rfl⟩
end

section
/-! SUPPORT. The SplitMix64 output function is a composition of bijections (40_seeding.md R81), so the seed
expansion stores the pair it mixes (R84). -/

namespace Sys2Proof.Machine

/-- A word that is its own proper right shift is zero. -/
theorem eq_zero_of_ushiftRight_eq {x : Word} {k : Nat} (hk : 0 < k) (h : x >>> k = x) : x = 0 := by
  have hx : x.toNat / 2 ^ k = x.toNat := by
    rw [← Nat.shiftRight_eq_div_pow, ← BitVec.toNat_ushiftRight, h]
  obtain hz | hone := Nat.div_eq_self.mp hx
  · exact BitVec.eq_of_toNat_eq hz
  · exact absurd hone (Nat.one_lt_two_pow hk.ne').ne'

theorem xorShift_xor (x y : Word) (k : Nat) : xorShift (x ^^^ y) k = xorShift x k ^^^ xorShift y k := by
  rw [xorShift, BitVec.ushiftRight_xor_distrib, xor_xor_xor_comm]
  rfl

/-- By linearity: only zero goes to zero. -/
theorem xorShift_bijective {k : Nat} (hk : 0 < k) : Function.Bijective (xorShift · k) := by
  refine Function.Injective.bijective_of_finite fun x y hxy => ?_
  have hzero : xorShift (x ^^^ y) k = 0 := by
    rw [xorShift_xor]
    exact BitVec.xor_eq_zero_iff.mpr hxy
  have hshift : (x ^^^ y) >>> k = x ^^^ y := (BitVec.xor_eq_zero_iff.mp hzero).symm
  exact BitVec.xor_eq_zero_iff.mp (eq_zero_of_ushiftRight_eq hk hshift)

/-- A product with an odd constant is undone by the product with its inverse. -/
theorem mul_const_bijective {c d : Word} (hcd : c * d = 1) : Function.Bijective (· * c : Word → Word) :=
  IsUnit.isUnit_iff_mulRight_bijective.mp (IsUnit.of_mul_eq_one d hcd)

theorem mix64_bijective : Function.Bijective mix64 := by
  have hmul1 := mul_const_bijective (c := 0xBF58476D1CE4E5B9) (d := 0x96DE1B173F119089) (by decide)
  have hmul2 := mul_const_bijective (c := 0x94D049BB133111EB) (d := 0x319642B2D24D8EC3) (by decide)
  exact (xorShift_bijective (by decide)).comp <| hmul2.comp <| (xorShift_bijective (by decide)).comp <|
    hmul1.comp <| xorShift_bijective (by decide)

/-- The two accumulators of a seed expansion differ by `GAMMA`, and `mix64` keeps them apart. -/
theorem seedExpansion_not_both_zero (s : Word) :
    ¬(mix64 (s + gamma) = 0 ∧ mix64 (s + gamma + gamma) = 0) := by
  rintro ⟨h0, h1⟩
  have hacc : s + gamma + gamma = s + gamma := mix64_bijective.injective (h1.trans h0.symm)
  exact absurd (add_eq_left.mp hacc) (by decide)

theorem add_gamma_add_gamma (s : Word) : s + gamma + gamma = s + 2 * gamma := by
  rw [add_assoc, two_mul]

theorem seed1Words_eq (s : Word) : seed1Words s = ⟨mix64 (s + gamma), mix64 (s + 2 * gamma)⟩ := by
  rw [← add_gamma_add_gamma]
  exact if_neg (seedExpansion_not_both_zero s)

end Sys2Proof.Machine
end

section
/-! SUPPORT. ACCEPT of a seed-class command (40_seeding.md R80, 60_exceptions.md R164). -/

namespace Sys2Proof.Machine

theorem seedLoads_seedPair {i : Instr} (hi : i.cmdClass = .seed) :
    SeedLoads i fun s => seedPair s.ent i := by
  intro s q hq hph hw
  have hadm : admission .seed s.seeded = .ok := by rw [State.seeded_of_no_words hw]; rfl
  rw [exec_of_seed hi, seedCommand_idle hq hph, accept_admitted hadm]

theorem acceptRefuses_of_seed {i : Instr} (hi : i.cmdClass = .seed) :
    AcceptRefuses i .alreadySeeded IsSeeded := by
  rintro s q hq hph ⟨g, hw⟩
  have hadm : admission .seed s.seeded = .alreadySeeded := by rw [State.seeded_of_words hw]; rfl
  rw [exec_of_seed hi, seedCommand_idle hq hph, accept_refused (by rw [hadm]; decide), hadm]

end Sys2Proof.Machine
end

section
/-! SUPPORT. The statements about seeding (40_seeding.md), settled. -/

open Sys2Proof Sys2Proof.Machine

/-- Settles O16: the formula is the definition, and each of its steps is a bijection. -/
theorem mixIsTheStatedBijection : Obligations.MixIsTheStatedBijection := by
  refine ⟨?_, by decide, mix64_bijective⟩
  rintro z _ _ _ _ rfl rfl rfl rfl
  rfl

/-- Settles O17: `mix64` is injective, so it does not send two different accumulators to zero. -/
theorem seedExpansionIsNeverBothZero : Obligations.SeedExpansionIsNeverBothZero := by
  refine fun s => ⟨?_, seed1Words_eq s⟩
  have h := seedExpansion_not_both_zero s
  rwa [add_gamma_add_gamma] at h

/-- Settles O18: the pair stored is the pair mixed. -/
theorem seedOneExpandsTheSeed : Obligations.SeedOneExpandsTheSeed := by
  refine fun s b => ⟨decode_packCmd 0x01 s b, ?_, acceptRefuses_of_seed rfl⟩
  have h : SeedLoads (.seed1 s) fun _ => seed1Words s := seedLoads_seedPair rfl
  rwa [seed1Words_eq] at h

/-- Settles O19, by the two cases of the substitution. -/
theorem seedTwoStoresThePair : Obligations.SeedTwoStoresThePair := by
  intro a b
  have h : SeedLoads (.seed2 a b) fun _ => seed2Words a b := seedLoads_seedPair rfl
  refine ⟨decode_packCmd 0x02 a b, fun hzero => ?_, fun hne => ?_, acceptRefuses_of_seed rfl⟩
  · rwa [seed2Words, if_pos hzero] at h
  · rwa [seed2Words, if_neg hne] at h

/-- Settles O20: the entropy input at ACCEPT is expanded as a seed is. -/
theorem seedEntropyExpandsTheInput : Obligations.SeedEntropyExpandsTheInput := by
  refine fun a b => ⟨decode_packCmd 0x03 a b, ?_, acceptRefuses_of_seed rfl⟩
  have h : SeedLoads .seedE fun s => seed1Words s.ent := seedLoads_seedPair rfl
  simp only [seed1Words_eq] at h
  exact h
end

section
/-! SUPPORT. The converse of the inversion of `takeTurn`: what is an effect of a turn is what the turn answers; and
under the invariant every turn has an effect (60_exceptions.md R160). -/

namespace Sys2Proof.Machine

theorem runCommand_of_decode {c : CmdWord} {i : Instr} (h : decode c = .ok i) (s : State) :
    runCommand c s = exec i s := by
  simp [runCommand, h]

/-- The ACCEPT of a word on an idle port is that of the word's class. -/
theorem runCommand_idle {c : CmdWord} {q : Port} {s : State} (hq : s.port? = some q) (hph : q.ctx.ph = .idle) :
    ∃ k, runCommand c s = accept (classOf (opField c)) k q s := by
  rcases runCommand_cases c s with ⟨hc, hr⟩ | ⟨i, hd, ⟨hc, hr⟩ | ⟨hc, hr⟩ | ⟨hc, hr⟩⟩ <;> rw [hr]
  · exact ⟨fun _ s => s, by simp [reservedCommand, hq, hph, refuseReserved, hc]⟩
  · rw [← cmdClass_of_decode hd, hc]
    exact ⟨_, seedCommand_idle hq hph⟩
  · rw [← cmdClass_of_decode hd, hc]
    exact ⟨_, readCommand_idle hq hph⟩
  · rw [← cmdClass_of_decode hd, hc]
    exact ⟨_, drawCommand_idle hq hph⟩

/-- A read-class or draw-class command is admitted by a seeded block (60_exceptions.md R166). -/
theorem admission_of_seeded {k : CmdClass} {s : State} (hk : k = .draw ∨ k = .read) (hs : s.seeded = true) :
    admission k s.seeded = .ok :=
  (admission_ok_iff _ _).mpr (.inr ⟨hk, hs⟩)

/-- ACCEPT of a read-class command on a seeded block (41_advance.md R96). -/
theorem exec_of_read_admitted {i : Instr} {s : State} {q : Port} (hc : i.cmdClass = .read)
    (hq : s.port? = some q) (hph : q.ctx.ph = .idle) (hs : s.seeded = true) :
    exec i s = .next (s.putPort (q.setPhase .read)) := by
  rw [exec_of_read hc, readCommand_idle hq hph, accept_admitted (admission_of_seeded (.inr rfl) hs)]

/-- ACCEPT of a draw-class command on a seeded block (41_advance.md R96). -/
theorem exec_of_draw_admitted {i : Instr} {s : State} {q : Port} (hc : i.cmdClass = .draw)
    (hq : s.port? = some q) (hph : q.ctx.ph = .idle) (hs : s.seeded = true) :
    exec i s = .next (s.putPort (startDraw i q)) := by
  rw [exec_of_draw hc, drawCommand_idle hq hph, accept_admitted (admission_of_seeded (.inl rfl) hs)]

/-- SNAPSHOT of a draw-class command (41_advance.md R97). -/
theorem exec_of_draw_fetch {i : Instr} {s : State} {q : Port} {g : Snapshot} (hc : i.cmdClass = .draw)
    (hq : s.port? = some q) (hph : q.ctx.ph = .fetch) (hw : s.words = some g) :
    exec i s = .next (s.putPort (q.holdSnapshot g)) := by
  rw [exec_of_draw hc, drawCommand_fetch hq hph, snapshotStep_next hw]

/-- A failed COMMIT of a draw-class command (41_advance.md R98, R99). -/
theorem exec_of_draw_retry {i : Instr} {s : State} {q : Port} {g : Snapshot} (hc : i.cmdClass = .draw)
    (hq : s.port? = some q) (hph : q.ctx.ph = .held) (hw : s.words = some g) (hne : g ≠ q.ctx.snapshot) :
    exec i s = .next (s.putPort (q.setPhase .fetch)) := by
  rw [exec_of_draw hc, drawCommand_held hq hph, commitStep_failure hw hne]

theorem AcceptStep.runCommand_eq {c : CmdWord} {q q' : Port} {s : State} {w' : Option Snapshot}
    (h : AcceptStep s.ent c s.words q w' q') (hq : s.port? = some q) (hph : q.ctx.ph = .idle) :
    runCommand c s = .next (s.afterStep s.active w' q') := by
  cases h with
  | refuse hst =>
    obtain ⟨k, hk⟩ := runCommand_idle (c := c) hq hph
    exact hk.trans (accept_refused hst)
  | seed hd hc hw => exact (runCommand_of_decode hd s).trans (seedLoads_seedPair hc s q hq hph hw)
  | read hd hc hw => exact (runCommand_of_decode hd s).trans (exec_of_read_admitted hc hq hph hw)
  | draw hd hc hw => exact (runCommand_of_decode hd s).trans (exec_of_draw_admitted hc hq hph hw)

theorem SequencerStep.runCommand_eq {q q' : Port} {s : State} {w' : Option Snapshot}
    (h : SequencerStep s.words q w' q') (hq : s.port? = some q) :
    runCommand q.ctx.cmd s = .next (s.afterStep s.active w' q') := by
  cases h with
  | snapshot hph hd hc hw => exact (runCommand_of_decode hd s).trans (exec_of_draw_fetch hc hq hph hw)
  | commit hph hd hc hw => exact (runCommand_of_decode hd s).trans (exec_of_draw_held hc hq hph hw)
  | retry hph hd hc hw hne => exact (runCommand_of_decode hd s).trans (exec_of_draw_retry hc hq hph hw hne)
  | read hph hd hc hw => exact (runCommand_of_decode hd s).trans (readAnswers_readData hc s q _ hq hph hw)

/-- The turn of a requester with a word presented on an idle port latches the word and runs it. -/
theorem takeTurn_requester_of_idle {p : Nat} {q : Port} {s : State} {c : CmdWord} {cs : List CmdWord}
    (hq : s.ports[p]? = some q) (hph : q.ctx.ph = .idle) (hpend : q.pending = c :: cs) :
    takeTurn (.requester p) s = runCommand c ((s.activate p).putPort (q.take c cs)) := by
  simp only [takeTurn, requesterTurn, hq, hph, hpend, runFound]
  rfl

theorem RequesterStep.takeTurn_eq {p : Nat} {q q' : Port} {s : State} {w' : Option Snapshot}
    (h : RequesterStep s.ent s.words q w' q') (hq : s.ports[p]? = some q) :
    takeTurn (.requester p) s = .next (s.afterStep p w' q') := by
  cases h with
  | respond hph =>
    simp only [takeTurn, requesterTurn, hq, hph, runFound]
    rfl
  | @accept c cs _ _ hph hpend ha =>
    have hq' : ((s.activate p).putPort (q.take c cs)).port? = some (q.take c cs) :=
      State.port?_putPort (s := s.activate p) (q := q) hq _
    have hrun := AcceptStep.runCommand_eq (s := (s.activate p).putPort (q.take c cs)) ha hq' hph
    have hafter : ((s.activate p).putPort (q.take c cs)).afterStep p w' q' = s.afterStep p w' q' := by
      simp [State.afterStep]
    rw [takeTurn_requester_of_idle hq hph hpend]
    exact hrun.trans (congrArg _ hafter)

/-- A port whose sequencer makes a step is in `FETCH`, `HELD` or `READ`. -/
theorem SequencerStep.inFlight {w w' : Option Snapshot} {q q' : Port} (h : SequencerStep w q w' q') :
    q.ctx.ph.inFlight := by
  cases h with
  | snapshot hph => exact .inl hph
  | commit hph | retry hph => exact .inr (.inl hph)
  | read hph => exact .inr (.inr hph)

/-- The turn of a sequencer whose port has a command in flight runs the command. -/
theorem takeTurn_sequencer_of_inFlight {p : Nat} {q : Port} {s : State} (hq : s.ports[p]? = some q)
    (hph : q.ctx.ph.inFlight) : takeTurn (.sequencer p) s = runCommand q.ctx.cmd (s.activate p) := by
  rcases hph with hph | hph | hph <;> simp only [takeTurn, sequencerTurn, hq, hph, runFound]

theorem SequencerStep.takeTurn_eq {p : Nat} {q q' : Port} {s : State} {w' : Option Snapshot}
    (h : SequencerStep s.words q w' q') (hq : s.ports[p]? = some q) :
    takeTurn (.sequencer p) s = .next (s.afterStep p w' q') := by
  rw [takeTurn_sequencer_of_inFlight hq h.inFlight]
  exact SequencerStep.runCommand_eq (s := s.activate p) h hq

theorem takeTurn_requester_of_passes {p : Nat} {s : State}
    (h : ∀ q, s.ports[p]? = some q → q.ctx.ph ≠ .done ∧ (q.ctx.ph = .idle → q.pending = [])) :
    takeTurn (.requester p) s = .next s := by
  simp only [takeTurn, requesterTurn]
  cases hq : s.ports[p]? with
  | none => rfl
  | some q =>
    obtain ⟨hdone, hidle⟩ := h q hq
    cases hph : q.ctx.ph with
    | idle => simp [hph, hidle hph, runFound]
    | done => exact absurd hph hdone
    | fetch | held | read => simp [hph, runFound]

theorem takeTurn_sequencer_of_passes {p : Nat} {s : State}
    (h : ∀ q, s.ports[p]? = some q → q.ctx.ph = .idle ∨ q.ctx.ph = .done) :
    takeTurn (.sequencer p) s = .next s := by
  simp only [takeTurn, sequencerTurn]
  cases hq : s.ports[p]? with
  | none => rfl
  | some q => rcases h q hq with hph | hph <;> simp [hph, runFound]

/-- A turn answers what is an effect of it; so it has at most one effect. -/
theorem TurnEffect.takeTurn_eq {t : Turn} {s s' : State} (h : TurnEffect s t s') : takeTurn t s = .next s' := by
  cases h with
  | requester hq hstep => exact hstep.takeTurn_eq hq
  | sequencer hq hstep => exact hstep.takeTurn_eq hq
  | requesterPasses h => exact takeTurn_requester_of_passes h
  | sequencerPasses h => exact takeTurn_sequencer_of_passes h
  | reset | drive | store | present => rfl

/-- A word whose opcode is of a class decodes to a command of that class (30_encoding.md R66, R67). -/
theorem exists_decode_of_class {c : CmdWord} {k : CmdClass} (hc : classOf (opField c) = k) (hk : k ≠ .reserved) :
    ∃ i, decode c = .ok i ∧ i.cmdClass = k := by
  cases hd : decode c with
  | error e => exact absurd (hc.symm.trans (classOf_of_decode_error hd)) hk
  | ok i => exact ⟨i, rfl, cmdClass_of_decode hd ▸ hc⟩

/-- The rest of ACCEPT is defined for every word. -/
theorem exists_acceptStep (ent : Word) (c : CmdWord) (w : Option Snapshot) (q : Port) :
    ∃ w' q', AcceptStep ent c w q w' q' := by
  by_cases hadm : admission (classOf (opField c)) w.isSome = .ok
  · obtain ⟨hc, hw⟩ | ⟨hc | hc, hw⟩ := (admission_ok_iff _ _).mp hadm <;>
      obtain ⟨i, hd, hi⟩ := exists_decode_of_class hc (by decide)
    · exact ⟨_, _, .seed hd hi (by simpa using hw)⟩
    · exact ⟨_, _, .draw hd hi hw⟩
    · exact ⟨_, _, .read hd hi hw⟩
  · exact ⟨_, _, .refuse hadm⟩

/-- Where a port with the invariant has a command in flight, its sequencer has a step. -/
theorem Port.Inv.exists_sequencerStep {w : Option Snapshot} {q : Port} (h : q.Inv w.isSome)
    (hph : q.ctx.ph.inFlight) : ∃ w' q', SequencerStep w q w' q' := by
  have decodes {k : CmdClass} (hc : classOf q.ctx.op = k) (hk : k ≠ .reserved) :
      ∃ i, decode q.ctx.cmd = .ok i ∧ i.cmdClass = k :=
    exists_decode_of_class (by rw [opField_cmd, hc]) hk
  rcases hph with hph | hph | hph
  · obtain ⟨hc, hw⟩ := h.drawing (.inl hph)
    obtain ⟨g, rfl⟩ := Option.isSome_iff_exists.mp hw
    obtain ⟨i, hd, hi⟩ := decodes hc (by decide)
    exact ⟨_, _, .snapshot hph hd hi rfl⟩
  · obtain ⟨hc, hw⟩ := h.drawing (.inr hph)
    obtain ⟨g, rfl⟩ := Option.isSome_iff_exists.mp hw
    obtain ⟨i, hd, hi⟩ := decodes hc (by decide)
    by_cases hg : g = q.ctx.snapshot
    · exact ⟨_, _, .commit hph hd hi (congrArg some hg)⟩
    · exact ⟨_, _, .retry hph hd hi rfl hg⟩
  · obtain ⟨hc, hw⟩ := h.reading hph
    obtain ⟨g, rfl⟩ := Option.isSome_iff_exists.mp hw
    obtain ⟨i, hd, hi⟩ := decodes hc (by decide)
    exact ⟨_, _, .read hph hd hi rfl⟩

theorem exists_requester_effect (p : Nat) (s : State) : ∃ s', TurnEffect s (.requester p) s' := by
  by_cases hstep : ∃ q, s.ports[p]? = some q ∧ ∃ w' q', RequesterStep s.ent s.words q w' q'
  · obtain ⟨q, hq, w', q', h⟩ := hstep
    exact ⟨_, .requester hq h⟩
  · refine ⟨s, .requesterPasses fun q hq => ⟨fun hph => ?_, fun hph => ?_⟩⟩
    · exact hstep ⟨q, hq, _, _, .respond hph⟩
    · cases hpend : q.pending with
      | nil => rfl
      | cons c cs =>
        obtain ⟨w', q', ha⟩ := exists_acceptStep s.ent c s.words (q.take c cs)
        exact absurd ⟨q, hq, w', q', .accept hph hpend ha⟩ hstep

theorem State.Inv.exists_sequencer_effect {s : State} (h : s.Inv) (p : Nat) :
    ∃ s', TurnEffect s (.sequencer p) s' := by
  by_cases hstep : ∃ q, s.ports[p]? = some q ∧ q.ctx.ph.inFlight
  · obtain ⟨q, hq, hph⟩ := hstep
    obtain ⟨w', q', hs⟩ := (h.of_port hq).exists_sequencerStep hph
    exact ⟨_, .sequencer hq hs⟩
  · refine ⟨s, .sequencerPasses fun q hq => ?_⟩
    have hnot : ¬q.ctx.ph.inFlight := fun hph => hstep ⟨q, hq, hph⟩
    cases hph : q.ctx.ph with
    | idle => exact .inl rfl
    | done => exact .inr rfl
    | fetch | held | read => simp [hph, Phase.inFlight] at hnot

/-- Under the invariant no turn stops the block. -/
theorem State.Inv.exists_takeTurn {s : State} (h : s.Inv) (t : Turn) : ∃ s', takeTurn t s = .next s' := by
  cases t with
  | requester p => exact (exists_requester_effect p s).imp fun _ => TurnEffect.takeTurn_eq
  | sequencer p => exact (h.exists_sequencer_effect p).imp fun _ => TurnEffect.takeTurn_eq
  | reset | drive | store | present => exact ⟨_, rfl⟩

end Sys2Proof.Machine
end

section
/-! SUPPORT. The simpler machine of 41_advance.md R100 in step with the full one: SNAPSHOT and a failed COMMIT are
no turn of it, a successful COMMIT is its ADVANCE, and every other turn is its own. -/

namespace Sys2Proof.Machine

@[simp] theorem State.collapse_words (s : State) : s.collapse.words = s.words := rfl
@[simp] theorem State.collapse_ports (s : State) : s.collapse.ports = s.ports.map Port.dropSnapshot := rfl

theorem State.collapse_port {s : State} {p : Nat} {q : Port} (h : s.ports[p]? = some q) :
    s.collapse.ports[p]? = some q.dropSnapshot := by
  simp [h]

theorem State.of_collapse_port {s : State} {p : Nat} {r : Port} (h : s.collapse.ports[p]? = some r) :
    ∃ q, s.ports[p]? = some q ∧ q.dropSnapshot = r := by
  simpa using h

@[simp] theorem Port.dropSnapshot_ctx_cmd (q : Port) : q.dropSnapshot.ctx.cmd = q.ctx.cmd := rfl

theorem Port.dropSnapshot_ctx_ph_of_ne {q : Port} (h : q.ctx.ph ≠ .held) : q.dropSnapshot.ctx.ph = q.ctx.ph :=
  if_neg h

theorem Port.dropSnapshot_ctx_ph_of_drawing {q : Port} (h : q.ctx.ph = .fetch ∨ q.ctx.ph = .held) :
    q.dropSnapshot.ctx.ph = .fetch := by
  rcases h with h | h <;> simp [Port.dropSnapshot, h]

/-- The phases in which a port holds no snapshot are shown. -/
theorem Port.dropSnapshot_ctx_ph_eq_iff {q : Port} {ph : Phase} (h : ph ≠ .fetch ∧ ph ≠ .held) :
    q.dropSnapshot.ctx.ph = ph ↔ q.ctx.ph = ph := by
  obtain ⟨hfetch, hheld⟩ := h
  by_cases hq : q.ctx.ph = .held
  · simp [Port.dropSnapshot_ctx_ph_of_drawing (.inr hq), hq, hfetch.symm, hheld.symm]
  · rw [Port.dropSnapshot_ctx_ph_of_ne hq]

theorem Port.dropSnapshot_holdSnapshot {q : Port} (h : q.ctx.ph = .fetch) (g : Snapshot) :
    (q.holdSnapshot g).dropSnapshot = q.dropSnapshot := by
  simp [Port.dropSnapshot, Port.holdSnapshot, Port.putCtx, h]

theorem Port.dropSnapshot_setPhase_fetch {q : Port} (h : q.ctx.ph = .held) :
    (q.setPhase .fetch).dropSnapshot = q.dropSnapshot := by
  simp [Port.dropSnapshot, Port.setPhase, Port.putCtx, h]

/-- What a step leaves of a port shows no snapshot that it found there, if the step writes the phase. -/
theorem dropSnapshot_startDraw (i : Instr) (q : Port) :
    (startDraw i q.dropSnapshot).dropSnapshot = (startDraw i q).dropSnapshot := by
  cases i
  case nextBytes len =>
    rw [startDraw_nextBytes, startBytes, startBytes]
    split <;> rfl
  all_goals rfl

theorem dropSnapshot_fillBytes (r : Word) (q : Port) :
    (fillBytes r q.dropSnapshot).dropSnapshot = (fillBytes r q).dropSnapshot := by
  have hcnt : q.dropSnapshot.ctx.cnt = q.ctx.cnt := rfl
  simp only [fillBytes, hcnt]
  split <;> rfl

theorem dropSnapshot_finishDraw (i : Instr) (r : Word) (q : Port) :
    (finishDraw i r q.dropSnapshot).dropSnapshot = (finishDraw i r q).dropSnapshot := by
  unfold finishDraw
  cases drawData i r with
  | none => exact dropSnapshot_fillBytes r q
  | some d => rfl

theorem Context.written_dropSnapshot (q : Port) (i : Nat) : q.dropSnapshot.ctx.written i = q.ctx.written i := by
  cases h : q.ctx.ph <;> simp [Context.written, Port.dropSnapshot, h]

@[simp] theorem Port.dropSnapshot_dropSnapshot (q : Port) : q.dropSnapshot.dropSnapshot = q.dropSnapshot := by
  cases h : q.ctx.ph <;> simp [Port.dropSnapshot, Port.putCtx, h]

@[simp] theorem dropSnapshot_comp_dropSnapshot : Port.dropSnapshot ∘ Port.dropSnapshot = Port.dropSnapshot :=
  funext Port.dropSnapshot_dropSnapshot

theorem dropSnapshot_store (i : BitVec 32) (v : Byte) (q : Port) :
    (q.dropSnapshot.store i v).dropSnapshot = (q.store i v).dropSnapshot := by
  simp only [Port.store, Context.written_dropSnapshot]
  split
  · exact q.dropSnapshot_dropSnapshot
  · exact ({ q with buf := q.buf.write i.toNat v } : Port).dropSnapshot_dropSnapshot

theorem dropSnapshot_present (c : CmdWord) (q : Port) :
    (q.dropSnapshot.present c).dropSnapshot = (q.present c).dropSnapshot :=
  (q.present c).dropSnapshot_dropSnapshot

/-- What ACCEPT does is the same without the snapshot. -/
theorem AcceptStep.dropSnapshot {ent : Word} {c : CmdWord} {w w' : Option Snapshot} {q q' : Port}
    (h : AcceptStep ent c w q w' q') :
    ∃ r, AcceptStep ent c w q.dropSnapshot w' r ∧ r.dropSnapshot = q'.dropSnapshot := by
  cases h with
  | refuse hst => exact ⟨_, .refuse hst, rfl⟩
  | seed hd hc hw => exact ⟨_, .seed hd hc hw, rfl⟩
  | read hd hc hw => exact ⟨_, .read hd hc hw, rfl⟩
  | draw hd hc hw => exact ⟨_, .draw hd hc hw, dropSnapshot_startDraw _ _⟩

theorem RequesterStep.dropSnapshot {ent : Word} {w w' : Option Snapshot} {q q' : Port}
    (h : RequesterStep ent w q w' q') :
    ∃ r, RequesterStep ent w q.dropSnapshot w' r ∧ r.dropSnapshot = q'.dropSnapshot := by
  cases h with
  | respond hph =>
    have hph' := (Port.dropSnapshot_ctx_ph_of_ne (q := q) (by simp [hph])).trans hph
    exact ⟨_, .respond hph', rfl⟩
  | accept hph hpend ha =>
    have hph' := (Port.dropSnapshot_ctx_ph_of_ne (q := q) (by simp [hph])).trans hph
    obtain ⟨r, hr, he⟩ := ha.dropSnapshot
    exact ⟨r, .accept hph' hpend hr, he⟩

/-- A step that writes one port, seen by the simpler machine. -/
theorem State.collapse_afterStep (s : State) (p : Nat) (w : Option Snapshot) (q : Port) :
    (s.afterStep p w q).collapse =
      { s.collapse with words := w, ports := s.collapse.ports.set p q.dropSnapshot } := by
  simp [State.collapse, State.afterStep, List.map_set]

@[simp] theorem State.collapse_collapse (s : State) : s.collapse.collapse = s.collapse := by
  simp [State.collapse]

theorem State.collapse_afterStep_congr (s : State) (p : Nat) (w : Option Snapshot) {q r : Port}
    (h : r.dropSnapshot = q.dropSnapshot) :
    (s.collapse.afterStep p w r).collapse = (s.afterStep p w q).collapse := by
  rw [collapse_afterStep, collapse_afterStep, collapse_collapse, h]

/-- A step that leaves the words and changes no more of its port than the snapshot is hidden. -/
theorem State.collapse_afterStep_hidden {s : State} {p : Nat} {q r : Port} (hq : s.ports[p]? = some q)
    (h : r.dropSnapshot = q.dropSnapshot) : (s.afterStep p s.words r).collapse = s.collapse := by
  obtain ⟨hlt, hget⟩ := List.getElem?_eq_some_iff.mp (State.collapse_port hq)
  rw [collapse_afterStep, h, ← hget, List.set_getElem_self]
  rfl

theorem State.collapse_atPort (s : State) (p : Nat) {f : Port → Port}
    (hf : ∀ q, (f q.dropSnapshot).dropSnapshot = (f q).dropSnapshot) :
    (s.collapse.atPort p f).collapse = (s.atPort p f).collapse := by
  cases hq : s.ports[p]? with
  | none => rw [State.atPort_of_none hq, State.atPort_of_none (by simp [hq]), collapse_collapse]
  | some q =>
    rw [State.atPort_of_port hq, State.atPort_of_port (State.collapse_port hq)]
    simp [State.collapse, List.map_set, hf]

theorem State.collapse_resetBlock (s : State) : (resetBlock s.collapse).collapse = (resetBlock s).collapse := by
  simp [State.collapse, resetBlock, Function.comp_def, Port.dropSnapshot, Port.putCtx]

/-- A turn of the sequencer of a port with a draw in flight: SNAPSHOT or COMMIT. -/
def IsDrawTurn (t : Turn) (s : State) : Prop :=
  ∃ p q, t = .sequencer p ∧ s.ports[p]? = some q ∧ (q.ctx.ph = .fetch ∨ q.ctx.ph = .held)

/-- Away from `FETCH` a turn of the simpler machine is that of the full one. -/
theorem simpleTurn_eq_takeTurn {t : Turn} {s : State}
    (h : ∀ p q, t = .sequencer p → s.ports[p]? = some q → q.ctx.ph ≠ .fetch) :
    simpleTurn t s = collapseOutcome (takeTurn t s) := by
  cases t with
  | sequencer p =>
    cases hq : s.ports[p]? with
    | none => simp [simpleTurn, hq, takeTurn_sequencer_of_passes (s := s) (p := p) (by simp [hq]), collapseOutcome]
    | some q => simp [simpleTurn, hq, h p q rfl hq]
  | requester | reset | drive | store | present => rfl

/-- A turn of the simpler machine on a port in `FETCH` is its ADVANCE (41_advance.md R93). -/
theorem simpleTurn_of_fetch {p : Nat} {q : Port} {s : State} (hq : s.ports[p]? = some q)
    (hph : q.ctx.ph = .fetch) : simpleTurn (.sequencer p) s = collapseOutcome (advance p q s) := by
  simp [simpleTurn, hq, hph]

/-- The ADVANCE of a port of the simpler machine is the successful COMMIT of the full one. -/
theorem simpleTurn_advance {p : Nat} {q : Port} {s : State} {g : Snapshot} {i : Instr}
    (hq : s.ports[p]? = some q) (hph : q.ctx.ph = .fetch ∨ q.ctx.ph = .held) (hd : decode q.ctx.cmd = .ok i)
    (hw : s.words = some g) :
    simpleTurn (.sequencer p) s.collapse =
      .next (s.afterStep p (some (next g)) (finishDraw i (raw g) q)).collapse := by
  rw [simpleTurn_of_fetch (State.collapse_port hq) (Port.dropSnapshot_ctx_ph_of_drawing hph)]
  simp only [advance, State.collapse_words, hw, Port.dropSnapshot_ctx_cmd, hd, collapseOutcome]
  rw [State.collapse_afterStep, ← dropSnapshot_finishDraw]
  simp [State.collapse, List.map_set]

/-- Every turn but SNAPSHOT and COMMIT is one turn of the simpler machine too. -/
theorem TurnEffect.simpleTurn_eq {t : Turn} {s s' : State} (h : TurnEffect s t s') (ht : ¬IsDrawTurn t s) :
    simpleTurn t s.collapse = .next s'.collapse := by
  have hfetch : ∀ p r, t = .sequencer p → s.collapse.ports[p]? = some r → r.ctx.ph ≠ .fetch := by
    rintro p r rfl hr hph
    obtain ⟨q, hq, rfl⟩ := State.of_collapse_port hr
    refine ht ⟨p, q, rfl, hq, or_iff_not_imp_right.mpr fun hheld => ?_⟩
    rwa [Port.dropSnapshot_ctx_ph_of_ne hheld] at hph
  suffices ∃ u, TurnEffect s.collapse t u ∧ u.collapse = s'.collapse by
    obtain ⟨u, hu, he⟩ := this
    rw [simpleTurn_eq_takeTurn hfetch, hu.takeTurn_eq, collapseOutcome, he]
  cases h with
  | requester hq hstep =>
    obtain ⟨r, hr, he⟩ := hstep.dropSnapshot
    exact ⟨_, .requester (State.collapse_port hq) hr, State.collapse_afterStep_congr _ _ _ he⟩
  | requesterPasses hpass =>
    refine ⟨_, .requesterPasses fun r hr => ?_, State.collapse_collapse s⟩
    obtain ⟨q, hq, rfl⟩ := State.of_collapse_port hr
    rw [ne_eq, Port.dropSnapshot_ctx_ph_eq_iff (by decide), Port.dropSnapshot_ctx_ph_eq_iff (by decide)]
    exact hpass q hq
  | sequencer hq hstep =>
    cases hstep with
    | snapshot hph => exact absurd ⟨_, _, rfl, hq, .inl hph⟩ ht
    | commit hph | retry hph => exact absurd ⟨_, _, rfl, hq, .inr hph⟩ ht
    | read hph hd hc hw =>
      have hph' := (Port.dropSnapshot_ctx_ph_eq_iff (by decide)).mpr hph
      exact ⟨_, .sequencer (State.collapse_port hq) (.read hph' hd hc hw),
        State.collapse_afterStep_congr _ _ _ rfl⟩
  | sequencerPasses hpass =>
    refine ⟨_, .sequencerPasses fun r hr => ?_, State.collapse_collapse s⟩
    obtain ⟨q, hq, rfl⟩ := State.of_collapse_port hr
    rw [Port.dropSnapshot_ctx_ph_eq_iff (by decide), Port.dropSnapshot_ctx_ph_eq_iff (by decide)]
    exact hpass q hq
  | reset => exact ⟨_, .reset, s.collapse_resetBlock⟩
  | drive => exact ⟨_, .drive, congrArg (driveEntropy _) s.collapse_collapse⟩
  | store => exact ⟨_, .store, s.collapse_atPort _ (dropSnapshot_store _ _)⟩
  | present => exact ⟨_, .present, s.collapse_atPort _ (dropSnapshot_present _)⟩

/-- SNAPSHOT and a failed COMMIT are hidden; a successful COMMIT is the ADVANCE of its port. -/
theorem TurnEffect.collapse_drawTurn {t : Turn} {s s' : State} (h : TurnEffect s t s') (ht : IsDrawTurn t s) :
    s'.collapse = s.collapse ∨ simpleTurn t s.collapse = .next s'.collapse := by
  obtain ⟨p, q, rfl, hq, hph⟩ := ht
  cases h with
  | sequencerPasses => exact .inl rfl
  | sequencer hq' hstep =>
    obtain rfl := Option.some.inj (hq.symm.trans hq')
    cases hstep with
    | snapshot hph' => exact .inl (State.collapse_afterStep_hidden hq (Port.dropSnapshot_holdSnapshot hph' _))
    | retry hph' => exact .inl (State.collapse_afterStep_hidden hq (Port.dropSnapshot_setPhase_fetch hph'))
    | commit hph' hd hc hw => exact .inr (simpleTurn_advance hq hph hd hw)
    | read hph' => simp [hph'] at hph

theorem simpleRun_cons_eq_next {t : Turn} {ts : List Turn} {s s' : State} :
    simpleRun (t :: ts) s = .next s' ↔ ∃ u, simpleTurn t s = .next u ∧ simpleRun ts u = .next s' := by
  cases h : simpleTurn t s <;> simp [simpleRun, h]

/-- A turn of the full machine is none or one of the simpler machine. -/
theorem takeTurn_refines {t : Turn} {s s' : State} (h : takeTurn t s = .next s') :
    s'.collapse = s.collapse ∨ simpleTurn t s.collapse = .next s'.collapse := by
  by_cases ht : IsDrawTurn t s
  · exact (takeTurn_effect h).collapse_drawTurn ht
  · exact .inr ((takeTurn_effect h).simpleTurn_eq ht)

theorem run_refines {ts : List Turn} {s s' : State} (h : run ts s = .next s') :
    ∃ us, simpleRun us s.collapse = .next s'.collapse := by
  induction ts generalizing s with
  | nil =>
    cases h
    exact ⟨[], rfl⟩
  | cons t ts ih =>
    obtain ⟨u, hturn, hrun⟩ := run_cons_eq_next.mp h
    obtain ⟨us, hus⟩ := ih hrun
    obtain he | hstep := takeTurn_refines hturn
    · exact ⟨us, he ▸ hus⟩
    · exact ⟨t :: us, simpleRun_cons_eq_next.mpr ⟨_, hstep, hus⟩⟩

/-- No port is between its SNAPSHOT and its COMMIT. -/
def NoneHeld (s : State) : Prop := ∀ q ∈ s.ports, q.ctx.ph ≠ .held

theorem NoneHeld.afterStep {s : State} (h : NoneHeld s) (p : Nat) (w : Option Snapshot) {q : Port}
    (hq : q.ctx.ph ≠ .held) : NoneHeld (s.afterStep p w q) := by
  intro r hr
  rcases List.mem_or_eq_of_mem_set hr with hr | rfl
  · exact h r hr
  · exact hq

theorem NoneHeld.atPort {s : State} (h : NoneHeld s) (p : Nat) {f : Port → Port} (hf : ∀ q, (f q).ctx = q.ctx) :
    NoneHeld (s.atPort p f) := by
  cases hq : s.ports[p]? with
  | none => rwa [State.atPort_of_none hq]
  | some q =>
    rw [State.atPort_of_port hq]
    intro r hr
    rcases List.mem_or_eq_of_mem_set hr with hr | rfl
    · exact h r hr
    · exact hf q ▸ h q (List.mem_of_getElem? hq)

theorem startDraw_ph_ne_held (i : Instr) (q : Port) : (startDraw i q).ctx.ph ≠ .held := by
  cases i
  case nextBytes len =>
    rw [startDraw_nextBytes, startBytes]
    split <;> exact Phase.noConfusion
  all_goals exact Phase.noConfusion

/-- A successful COMMIT leaves its port in `FETCH` or `DONE` (41_advance.md R98). -/
theorem finishDraw_ph (i : Instr) (r : Word) (q : Port) :
    (finishDraw i r q).ctx.ph = .fetch ∨ (finishDraw i r q).ctx.ph = .done := by
  unfold finishDraw fillBytes
  split
  · exact .inr rfl
  · dsimp only
    split
    · exact .inr rfl
    · exact .inl rfl

theorem RequesterStep.ph_ne_held {ent : Word} {w w' : Option Snapshot} {q q' : Port}
    (h : RequesterStep ent w q w' q') : q'.ctx.ph ≠ .held := by
  cases h with
  | respond => exact Phase.noConfusion
  | accept _ _ ha =>
    cases ha with
    | refuse | seed | read => exact Phase.noConfusion
    | draw => exact startDraw_ph_ne_held _ _

/-- Only SNAPSHOT leaves a port in `HELD`. -/
theorem TurnEffect.noneHeld {t : Turn} {s s' : State} (h : TurnEffect s t s') (ht : ¬IsDrawTurn t s)
    (hs : NoneHeld s) : NoneHeld s' := by
  cases h with
  | requester hq hstep => exact hs.afterStep _ _ hstep.ph_ne_held
  | sequencer hq hstep =>
    cases hstep with
    | snapshot hph => exact absurd ⟨_, _, rfl, hq, .inl hph⟩ ht
    | commit hph | retry hph => exact absurd ⟨_, _, rfl, hq, .inr hph⟩ ht
    | read => exact hs.afterStep _ _ Phase.noConfusion
  | requesterPasses | sequencerPasses | drive => exact hs
  | reset =>
    intro r hr
    obtain ⟨q, -, rfl⟩ := List.mem_map.mp hr
    exact Phase.noConfusion
  | store => exact hs.atPort _ (Port.store_ctx _ _)
  | present => exact hs.atPort _ (Port.present_ctx _)

theorem State.afterStep_port_same {s : State} {p : Nat} {q : Port} (hq : s.ports[p]? = some q)
    (w : Option Snapshot) (r : Port) : (s.afterStep p w r).ports[p]? = some r := by
  simp [(List.getElem?_eq_some_iff.mp hq).1]

theorem State.afterStep_afterStep (s : State) (p : Nat) (w w' : Option Snapshot) (q q' : Port) :
    (s.afterStep p w q).afterStep p w' q' = s.afterStep p w' q' := by
  simp [State.afterStep]

@[simp] theorem Port.holdSnapshot_ctx_snapshot (q : Port) (g : Snapshot) :
    (q.holdSnapshot g).ctx.snapshot = g := rfl

/-- A run of two lists of turns is the run of the second from where the first leads. -/
theorem run_append_eq_next {ts us : List Turn} {s s' : State} :
    run (ts ++ us) s = .next s' ↔ ∃ u, run ts s = .next u ∧ run us u = .next s' := by
  induction ts generalizing s with
  | nil => simp [run]
  | cons t ts ih =>
    simp only [List.cons_append, run_cons_eq_next, ih]
    constructor
    · rintro ⟨u, hu, v, hv, hs'⟩
      exact ⟨v, ⟨u, hu, hv⟩, hs'⟩
    · rintro ⟨v, ⟨u, hu, hv⟩, hs'⟩
      exact ⟨u, hu, v, hv, hs'⟩

theorem run_inv {ts : List Turn} {s s' : State} (hs : s.Inv) (h : run ts s = .next s') : s'.Inv := by
  induction ts generalizing s with
  | nil =>
    cases h
    exact hs
  | cons t ts ih =>
    obtain ⟨u, hturn, hrun⟩ := run_cons_eq_next.mp h
    exact ih (takeTurn_inv hs hturn) hrun

/-- The SNAPSHOT of a port in `FETCH`, with what it takes and what is in flight. -/
theorem State.Inv.snapshot {s : State} (hs : s.Inv) {p : Nat} {q : Port} (hq : s.ports[p]? = some q)
    (hph : q.ctx.ph = .fetch) :
    ∃ g i, s.words = some g ∧ decode q.ctx.cmd = .ok i ∧ i.cmdClass = .draw ∧
      takeTurn (.sequencer p) s = .next (s.afterStep p (some g) (q.holdSnapshot g)) := by
  obtain ⟨w', q', hstep⟩ := (hs.of_port hq).exists_sequencerStep (.inl hph)
  have hturn := hstep.takeTurn_eq hq
  cases hstep with
  | @snapshot g i _ hd hc hw => exact ⟨g, i, hw, hd, hc, hw ▸ hturn⟩
  | commit hph' | retry hph' | read hph' => simp [hph] at hph'

/-- SNAPSHOT immediately followed by COMMIT makes the ADVANCE of a port in `FETCH` (41_advance.md R100). -/
theorem State.Inv.snapshot_commit {s : State} (hs : s.Inv) (hheld : NoneHeld s) {p : Nat} {q : Port}
    (hq : s.ports[p]? = some q) (hph : q.ctx.ph = .fetch) :
    ∃ s', run [.sequencer p, .sequencer p] s = .next s' ∧ NoneHeld s' ∧
      simpleTurn (.sequencer p) s.collapse = .next s'.collapse := by
  obtain ⟨g, i, hw, hd, hc, hsnap⟩ := hs.snapshot hq hph
  have hq' := State.afterStep_port_same hq (some g) (q.holdSnapshot g)
  have hcommit : SequencerStep (some g) (q.holdSnapshot g) (some (next g))
      (finishDraw i (raw g) (q.holdSnapshot g)) := .commit rfl hd hc rfl
  refine ⟨_, run_cons_eq_next.mpr ⟨_, hsnap, run_cons_eq_next.mpr ⟨_, hcommit.takeTurn_eq hq', rfl⟩⟩, ?_, ?_⟩
  · rw [State.afterStep_afterStep]
    refine hheld.afterStep p _ ?_
    rcases finishDraw_ph i (raw g) (q.holdSnapshot g) with hph' | hph' <;> simp [hph']
  · have hhidden := State.collapse_afterStep_hidden hq (Port.dropSnapshot_holdSnapshot hph g)
    rw [← hhidden, hw]
    exact simpleTurn_advance hq' (.inr rfl) hd rfl

/-- A turn of the simpler machine, from a state with no port in `HELD`, is a run of the full one. -/
theorem simpleTurn_implemented {t : Turn} {s u : State} (hs : s.Inv) (hheld : NoneHeld s)
    (h : simpleTurn t s.collapse = .next u) :
    ∃ ts s', run ts s = .next s' ∧ NoneHeld s' ∧ s'.collapse = u := by
  by_cases ht : IsDrawTurn t s
  · obtain ⟨p, q, rfl, hq, hph⟩ := ht
    have hfetch := hph.resolve_right (hheld q (List.mem_of_getElem? hq))
    obtain ⟨s', hrun, hheld', hsimple⟩ := hs.snapshot_commit hheld hq hfetch
    exact ⟨_, s', hrun, hheld', Host.Outcome.next.inj (hsimple.symm.trans h)⟩
  · obtain ⟨s', hturn⟩ := hs.exists_takeTurn t
    have heffect := takeTurn_effect hturn
    exact ⟨[t], s', run_cons_eq_next.mpr ⟨s', hturn, rfl⟩, heffect.noneHeld ht hheld,
      Host.Outcome.next.inj ((heffect.simpleTurn_eq ht).symm.trans h)⟩

theorem simpleRun_implemented {us : List Turn} {s t : State} (hs : s.Inv) (hheld : NoneHeld s)
    (h : simpleRun us s.collapse = .next t) : ∃ ts s', run ts s = .next s' ∧ s'.collapse = t := by
  induction us generalizing s with
  | nil =>
    cases h
    exact ⟨[], s, rfl, rfl⟩
  | cons u us ih =>
    obtain ⟨v, hturn, hrun⟩ := simpleRun_cons_eq_next.mp h
    obtain ⟨ts₁, s₁, hrun₁, hheld₁, rfl⟩ := simpleTurn_implemented hs hheld hturn
    obtain ⟨ts₂, s₂, hrun₂, he⟩ := ih (run_inv hs hrun₁) hheld₁ hrun
    exact ⟨ts₁ ++ ts₂, s₂, run_append_eq_next.mpr ⟨s₁, hrun₁, hrun₂⟩, he⟩

end Sys2Proof.Machine
end
section
/-! SUPPORT. The statements that the full machine and the simpler one of 41_advance.md R100 do the same, settled. -/

open Sys2Proof Sys2Proof.Machine

/-- Settles O57, by induction on the run: each turn is none or one of the simpler machine. -/
theorem fullMachineRefinesTheSimple : Obligations.FullMachineRefinesTheSimple :=
  fun _ _ _ _ h => run_refines h

/-- Settles O58, by induction on the simpler machine's run: ADVANCE is SNAPSHOT and COMMIT, and every other turn
is the same turn. -/
theorem simpleMachineIsAFullOne : Obligations.SimpleMachineIsAFullOne :=
  fun _ _ _ hs hheld h => simpleRun_implemented hs hheld h
end

section
/-! SUPPORT. A draw in flight (41_advance.md R99, R101): the turns of others leave it as it is, its own turns bring
it nearer to its end while no other port draws. -/

namespace Sys2Proof.Machine

theorem State.afterStep_port_other {s : State} {p k : Nat} (w : Option Snapshot) (r : Port) (h : k ≠ p) :
    (s.afterStep p w r).ports[k]? = s.ports[k]? := by
  simp [Ne.symm h]

theorem State.atPort_port_same {s : State} {p : Nat} {q : Port} (hq : s.ports[p]? = some q) (f : Port → Port) :
    (s.atPort p f).ports[p]? = some (f q) := by
  simp [hq]

/-- The requester of a port has a step in `IDLE` and `DONE` only. -/
theorem RequesterStep.ph {ent : Word} {w w' : Option Snapshot} {q q' : Port} (h : RequesterStep ent w q w' q') :
    q.ctx.ph = .idle ∨ q.ctx.ph = .done := by
  cases h with
  | accept hph => exact .inl hph
  | respond hph => exact .inr hph

/-- What a requester does on its own side leaves the context of every port. -/
theorem State.atPort_ctx {s : State} {p k : Nat} {q : Port} (hq : s.ports[k]? = some q) {f : Port → Port}
    (hf : ∀ r, (f r).ctx = r.ctx) : ∃ q', (s.atPort p f).ports[k]? = some q' ∧ q'.ctx = q.ctx := by
  by_cases hk : k = p
  · subst hk
    exact ⟨_, State.atPort_port_same hq f, hf q⟩
  · exact ⟨q, (State.atPort_other s f hk).trans hq, rfl⟩

/-- The context of a port with a draw in flight is written by its own sequencer and by RESET only. -/
theorem takeTurn_ctx_of_drawing {t : Turn} {k : Nat} {s s' : State} {q : Port} (h : takeTurn t s = .next s')
    (hq : s.ports[k]? = some q) (hph : q.ctx.ph = .fetch ∨ q.ctx.ph = .held) (hreset : t ≠ .reset)
    (hk : t ≠ .sequencer k) : ∃ q', s'.ports[k]? = some q' ∧ q'.ctx = q.ctx := by
  cases takeTurn_effect h with
  | @requester p _ _ _ hp hstep =>
    have hkp : k ≠ p := by
      rintro rfl
      obtain rfl := Option.some.inj (hq.symm.trans hp)
      rcases hph with hph | hph <;> simpa [hph] using hstep.ph
    exact ⟨q, (State.afterStep_port_other _ _ hkp).trans hq, rfl⟩
  | @sequencer p =>
    have hkp : k ≠ p := fun hkp => hk (hkp ▸ rfl)
    exact ⟨q, (State.afterStep_port_other _ _ hkp).trans hq, rfl⟩
  | requesterPasses | sequencerPasses | drive => exact ⟨q, hq, rfl⟩
  | store => exact State.atPort_ctx hq (Port.store_ctx _ _)
  | present => exact State.atPort_ctx hq (Port.present_ctx _)
  | reset => exact absurd rfl hreset

theorem run_ctx_of_drawing {ts : List Turn} {k : Nat} {s s' : State} {q : Port} (h : run ts s = .next s')
    (hq : s.ports[k]? = some q) (hph : q.ctx.ph = .fetch ∨ q.ctx.ph = .held) (hreset : Turn.reset ∉ ts)
    (hk : Turn.sequencer k ∉ ts) : ∃ q', s'.ports[k]? = some q' ∧ q'.ctx = q.ctx := by
  induction ts generalizing s q with
  | nil =>
    cases h
    exact ⟨q, hq, rfl⟩
  | cons t ts ih =>
    obtain ⟨u, hturn, hrun⟩ := run_cons_eq_next.mp h
    obtain ⟨r, hr, hctx⟩ := takeTurn_ctx_of_drawing hturn hq hph (List.ne_of_not_mem_cons hreset).symm
      (List.ne_of_not_mem_cons hk).symm
    rw [← hctx] at hph ⊢
    exact ih hrun hr hph (List.not_mem_of_not_mem_cons hreset) (List.not_mem_of_not_mem_cons hk)

/-- The turn of a sequencer in `FETCH` or `HELD` makes a step. -/
theorem sequencerStep_of_drawing {p : Nat} {s s' : State} {q : Port} (h : takeTurn (.sequencer p) s = .next s')
    (hq : s.ports[p]? = some q) (hph : q.ctx.ph = .fetch ∨ q.ctx.ph = .held) :
    ∃ w' q', SequencerStep s.words q w' q' ∧ s' = s.afterStep p w' q' := by
  cases takeTurn_effect h with
  | sequencer hq' hstep =>
    obtain rfl := Option.some.inj (hq.symm.trans hq')
    exact ⟨_, _, hstep, rfl⟩
  | sequencerPasses hpass => rcases hpass q hq with hpass | hpass <;> simp [hpass] at hph

/-- At most so many turns of its sequencer end a draw in flight while no other port draws: for each byte not yet
written a retry, a SNAPSHOT and a COMMIT. -/
def turnsLeft (w : Option Snapshot) (c : Context) : Nat :=
  3 * c.cnt.toNat + if c.ph = .held then (if w = some c.snapshot then 0 else 2) else 1

/-- A successful COMMIT ends the command, or leaves a `NEXTBYTES` with fewer bytes to write. -/
theorem finishDraw_done_or_cnt_lt {i : Instr} (hc : i.cmdClass = .draw) (r : Word) (q : Port) :
    (finishDraw i r q).ctx.ph = .done ∨
    (finishDraw i r q).ctx.ph = .fetch ∧ (finishDraw i r q).ctx.cnt.toNat < q.ctx.cnt.toNat := by
  obtain ⟨len, rfl⟩ | ⟨-, -, hfinish⟩ := draw_kinds hc
  · have hleft := toNat_sub_drawBytes q.ctx.cnt
    simp only [finishDraw_nextBytes, fillBytes]
    split
    next h0 => exact .inl rfl
    next h0 =>
      refine .inr ⟨rfl, ?_⟩
      have hpos : (q.ctx.cnt - BitVec.ofNat 32 (drawBytes q.ctx.cnt.toNat)).toNat ≠ 0 :=
        fun h => h0 (BitVec.eq_of_toNat_eq h)
      simp only [Port.setPhase_ctx_cnt, Port.setCount_ctx_cnt, hleft]
      rw [hleft] at hpos
      unfold drawBytes at *
      omega
  · obtain ⟨d, hd⟩ := hfinish r
    exact .inl (by rw [hd]; rfl)

/-- Each turn of its sequencer ends a draw in flight or brings it nearer to its end. -/
theorem SequencerStep.done_or_turnsLeft_lt {w w' : Option Snapshot} {q q' : Port} (h : SequencerStep w q w' q')
    (hph : q.ctx.ph = .fetch ∨ q.ctx.ph = .held) :
    q'.ctx.ph = .done ∨
    (q'.ctx.ph = .fetch ∨ q'.ctx.ph = .held) ∧ turnsLeft w' q'.ctx < turnsLeft w q.ctx := by
  cases h with
  | snapshot hf _ _ hw => exact .inr ⟨.inr rfl, by simp [turnsLeft, hf, hw]⟩
  | retry hheld _ _ hw hne => exact .inr ⟨.inl rfl, by simp [turnsLeft, hheld, hw, hne]⟩
  | read hread => simp [hread] at hph
  | commit hheld hd hc hw =>
    refine (finishDraw_done_or_cnt_lt hc _ q).imp_right fun ⟨hfetch, hcnt⟩ => ⟨.inl hfetch, ?_⟩
    have hleft : turnsLeft w q.ctx = 3 * q.ctx.cnt.toNat := by simp [turnsLeft, hheld, hw]
    rw [hleft]
    simp only [turnsLeft, hfetch, reduceCtorEq, if_false]
    omega

/-- A draw is made by a turn of the sequencer of the port it goes to. -/
theorem eq_sequencer_of_drawOfTurn {t : Turn} {p : Nat} {r : Word} {s : State}
    (h : drawOfTurn t s = some (p, r)) : t = .sequencer p := by
  cases t with
  | requester | reset | drive | store | present => cases h
  | sequencer k =>
    cases hq : s.ports[k]? with
    | none => simp [drawOfTurn, hq] at h
    | some q =>
      cases hw : s.words with
      | none => simp [drawOfTurn, hq, hw] at h
      | some g =>
        simp only [drawOfTurn, hq, hw, Option.ite_none_right_eq_some, Option.some.injEq, Prod.mk.injEq] at h
        exact congrArg Turn.sequencer h.2.1

/-- A turn of another agent while no other port draws makes no draw. -/
theorem drawOfTurn_eq_none_of_others {t : Turn} {p : Nat} {s : State} (hp : t ≠ .sequencer p)
    (h : ¬OtherDraws p t s) : drawOfTurn t s = none := by
  refine Option.eq_none_iff_forall_ne_some.mpr fun ⟨k, r⟩ hd => ?_
  obtain rfl := eq_sequencer_of_drawOfTurn hd
  exact h ⟨k, r, hd, fun hk => hp (hk ▸ rfl)⟩

/-- A turn of a seeded block, other than RESET, that makes no draw leaves the words. -/
theorem takeTurn_words_of_no_draw {t : Turn} {s s' : State} {g : Snapshot} (h : takeTurn t s = .next s')
    (ht : t ≠ .reset) (hw : s.words = some g) (hd : drawOfTurn t s = none) : s'.words = some g := by
  obtain ⟨-, hw'⟩ | ⟨p, hdraw, -⟩ := takeTurn_draw ht hw h
  · exact hw'
  · simp [hd] at hdraw

/-- A run of a seeded block without RESET and without a draw leaves the words. -/
theorem run_words_of_no_draw {ts : List Turn} {s s' : State} {g : Snapshot} (h : run ts s = .next s')
    (hts : Turn.reset ∉ ts) (hw : s.words = some g) (hd : drawsOf ts s = []) : s'.words = some g := by
  simpa [hd, nextN] using (run_draws hts hw h).2

/-- The draw of a port in `HELD` whose snapshot is the state. -/
theorem drawOfTurn_of_fresh {p : Nat} {s : State} {q : Port} {g : Snapshot} (hq : s.ports[p]? = some q)
    (hph : q.ctx.ph = .held) (hg : q.ctx.snapshot = g) (hw : s.words = some g) :
    drawOfTurn (.sequencer p) s = some (p, raw g) := by
  simp [drawOfTurn, hq, hw, hph, hg]

end Sys2Proof.Machine
end

section
/-! SUPPORT. An infinite schedule, turn by turn. -/

namespace Sys2Proof.Machine

theorem runUpTo_succ_eq_next {sched : Nat → Turn} {n : Nat} {s s' : State} :
    runUpTo sched (n + 1) s = .next s' ↔
      ∃ u, runUpTo sched n s = .next u ∧ takeTurn (sched n) u = .next s' := by
  rw [runUpTo, List.range_succ, List.map_append, run_append_eq_next]
  simp only [List.map_singleton, run_cons_eq_next]
  simp [run, runUpTo]

theorem runUpTo_inv {sched : Nat → Turn} {n : Nat} {s s' : State} (hs : s.Inv)
    (h : runUpTo sched n s = .next s') : s'.Inv :=
  run_inv hs h

/-- The draw in flight on port `p` ends: under the schedule the port comes to `DONE`. -/
def DrawEnds (sched : Nat → Turn) (s : State) (p : Nat) : Prop :=
  ∃ n u q, runUpTo sched n s = .next u ∧ u.ports[p]? = some q ∧ q.ctx.ph = .done

/-- After `n` turns of the schedule port `p`, as `q`, has a draw in flight. -/
structure DrawingAt (sched : Nat → Turn) (s : State) (p n : Nat) (u : State) (q : Port) : Prop where
  reached : runUpTo sched n s = .next u
  port : u.ports[p]? = some q
  phase : q.ctx.ph = .fetch ∨ q.ctx.ph = .held

section
variable {sched : Nat → Turn} {s : State} {p : Nat} (hs : s.Inv) (hreset : ∀ n, sched n ≠ .reset)
include hs

/-- A turn of its sequencer ends a draw in flight or brings it nearer to its end. -/
theorem DrawingAt.own_turn {n : Nat} {u : State} {q : Port} (h : DrawingAt sched s p n u q)
    (ht : sched n = .sequencer p) :
    DrawEnds sched s p ∨ ∃ u' q', DrawingAt sched s p (n + 1) u' q' ∧
      turnsLeft u'.words q'.ctx < turnsLeft u.words q.ctx := by
  obtain ⟨hrun, hq, hph⟩ := h
  obtain ⟨u', hturn⟩ := (runUpTo_inv hs hrun).exists_takeTurn (sched n)
  have hrun' := runUpTo_succ_eq_next.mpr ⟨u, hrun, hturn⟩
  rw [ht] at hturn
  obtain ⟨w', q', hstep, rfl⟩ := sequencerStep_of_drawing hturn hq hph
  have hq' := State.afterStep_port_same hq w' q'
  obtain hdone | ⟨hph', hlt⟩ := hstep.done_or_turnsLeft_lt hph
  · exact .inl ⟨n + 1, _, q', hrun', hq', hdone⟩
  · exact .inr ⟨_, q', ⟨hrun', hq', hph'⟩, hlt⟩

include hreset

/-- A turn of another agent leaves a draw in flight as it is, and the words if no other port draws. -/
theorem DrawingAt.other_turn {n : Nat} {u : State} {q : Port} (h : DrawingAt sched s p n u q)
    (ht : sched n ≠ .sequencer p) :
    ∃ u' q', DrawingAt sched s p (n + 1) u' q' ∧ q'.ctx = q.ctx ∧
      (¬OtherDraws p (sched n) u → u'.words = u.words) := by
  obtain ⟨hrun, hq, hph⟩ := h
  have hinv := runUpTo_inv hs hrun
  obtain ⟨u', hturn⟩ := hinv.exists_takeTurn (sched n)
  obtain ⟨q', hq', hctx⟩ := takeTurn_ctx_of_drawing hturn hq hph (hreset n) ht
  refine ⟨u', q', ⟨runUpTo_succ_eq_next.mpr ⟨u, hrun, hturn⟩, hq', hctx ▸ hph⟩, hctx, fun hquiet => ?_⟩
  obtain ⟨g, hw⟩ := Option.isSome_iff_exists.mp ((hinv.of_port hq).drawing hph).2
  rw [hw]
  exact takeTurn_words_of_no_draw hturn (hreset n) hw (drawOfTurn_eq_none_of_others ht hquiet)

/-- A draw in flight ends, or is still in flight after any number of turns. -/
theorem drawEnds_or_drawingAt {q : Port} (h : DrawingAt sched s p 0 s q) (n : Nat) :
    DrawEnds sched s p ∨ ∃ u q', DrawingAt sched s p n u q' := by
  induction n with
  | zero => exact .inr ⟨s, q, h⟩
  | succ n ih =>
    obtain hends | ⟨u, r, hr⟩ := ih
    · exact .inl hends
    · by_cases ht : sched n = .sequencer p
      · obtain hends | ⟨u', r', hr', -⟩ := hr.own_turn hs ht
        · exact .inl hends
        · exact .inr ⟨u', r', hr'⟩
      · obtain ⟨u', r', hr', -⟩ := hr.other_turn hs hreset ht
        exact .inr ⟨u', r', hr'⟩

/-- Once no other port draws, a draw in flight ends or comes nearer to its end at the next turn of its sequencer,
`d` turns on or sooner. -/
theorem DrawingAt.nearer {N : Nat}
    (hquiet : ∀ n, N ≤ n → ∀ u, runUpTo sched n s = .next u → ¬OtherDraws p (sched n) u) {d n : Nat} (hn : N ≤ n)
    {u : State} {q : Port} (h : DrawingAt sched s p n u q) (ht : sched (n + d) = .sequencer p) :
    DrawEnds sched s p ∨ ∃ m u' q', N ≤ m ∧ DrawingAt sched s p m u' q' ∧
      turnsLeft u'.words q'.ctx < turnsLeft u.words q.ctx := by
  induction d generalizing n u q with
  | zero =>
    obtain hends | ⟨u', q', h', hlt⟩ := h.own_turn hs ht
    · exact .inl hends
    · exact .inr ⟨n + 1, u', q', by omega, h', hlt⟩
  | succ d ih =>
    by_cases hown : sched n = .sequencer p
    · obtain hends | ⟨u', q', h', hlt⟩ := h.own_turn hs hown
      · exact .inl hends
      · exact .inr ⟨n + 1, u', q', by omega, h', hlt⟩
    · obtain ⟨u', q', h', hctx, hwords⟩ := h.other_turn hs hreset hown
      rw [← hctx, ← hwords (hquiet n hn u h.reached)]
      refine ih (by omega) h' ?_
      rwa [Nat.add_right_comm, Nat.add_assoc]

/-- Once no other port draws, a draw in flight ends under a fair schedule. -/
theorem DrawingAt.ends (hfair : SequencerFair sched p) {N : Nat}
    (hquiet : ∀ n, N ≤ n → ∀ u, runUpTo sched n s = .next u → ¬OtherDraws p (sched n) u) {n : Nat} (hn : N ≤ n)
    {u : State} {q : Port} (h : DrawingAt sched s p n u q) : DrawEnds sched s p := by
  induction hk : turnsLeft u.words q.ctx using Nat.strong_induction_on generalizing n u q with
  | _ k ih =>
    subst hk
    obtain ⟨m, hm, ht⟩ := hfair n
    obtain ⟨d, rfl⟩ := Nat.exists_eq_add_of_le hm
    obtain hends | ⟨m, u', q', hNm, h', hlt⟩ := h.nearer hs hreset hquiet hn ht
    · exact hends
    · exact ih _ hlt hNm h' rfl

end

end Sys2Proof.Machine
end

section
/-! SUPPORT. How a draw starves (41_advance.md R101, 70_reset_and_hazards.md R188): between its SNAPSHOT and its COMMIT
another port draws, again and again, in a round of seven turns. -/

namespace Sys2Proof.Machine

/-- The block has port `p`, and it is as `P` says. -/
def HasPort (p : Nat) (P : Port → Prop) (s : State) : Prop := ∃ q, s.ports[p]? = some q ∧ P q

theorem HasPort.afterStep_other {p k : Nat} {P : Port → Prop} {s : State} (h : HasPort p P s) (hpk : p ≠ k)
    (w : Option Snapshot) (r : Port) : HasPort p P (s.afterStep k w r) := by
  obtain ⟨q, hq, hP⟩ := h
  exact ⟨q, (State.afterStep_port_other w r hpk).trans hq, hP⟩

theorem HasPort.atPort_other {p k : Nat} {P : Port → Prop} {s : State} (h : HasPort p P s) (hpk : p ≠ k)
    (f : Port → Port) : HasPort p P (s.atPort k f) := by
  obtain ⟨q, hq, hP⟩ := h
  exact ⟨q, (State.atPort_other s f hpk).trans hq, hP⟩

/-- A port in `HELD` with the snapshot `g`. -/
def Port.Holds (g : Snapshot) (q : Port) : Prop := q.ctx.ph = .held ∧ q.ctx.snapshot = g

/-- A port in `IDLE` whose requester presents these words. -/
def Port.Awaits (cs : List CmdWord) (q : Port) : Prop := q.ctx.ph = .idle ∧ q.pending = cs

/-- A port with a `NEXTLONG` in flight, no word presented beside it. -/
def Port.DrawsLong (q : Port) : Prop := decode q.ctx.cmd = .ok .nextLong ∧ q.pending = []

/-- The round: port `p` takes its snapshot; port `k` is presented a `NEXTLONG`, draws, and is answered; then port
`p` comes to its COMMIT. -/
def starveTurn (p k : Nat) : Nat → Turn
  | 0 => .sequencer p
  | 1 => .present k (encode .nextLong)
  | 2 => .requester k
  | 3 => .sequencer k
  | 4 => .sequencer k
  | 5 => .requester k
  | _ => .sequencer p

/-- Where the round stands before its turn `i`; `g` is the state that it began with. -/
inductive StarveRound (p k : Nat) (g : Snapshot) (s : State) : Nat → Prop
  | fetching : s.words = some g → HasPort p (·.ctx.ph = .fetch) s → HasPort k (Port.Awaits []) s →
      StarveRound p k g s 0
  | held : s.words = some g → HasPort p (Port.Holds g) s → HasPort k (Port.Awaits []) s → StarveRound p k g s 1
  | presented : s.words = some g → HasPort p (Port.Holds g) s →
      HasPort k (Port.Awaits [encode .nextLong]) s → StarveRound p k g s 2
  | accepted : s.words = some g → HasPort p (Port.Holds g) s →
      HasPort k (fun r => r.DrawsLong ∧ r.ctx.ph = .fetch) s → StarveRound p k g s 3
  | bothHeld : s.words = some g → HasPort p (Port.Holds g) s →
      HasPort k (fun r => r.DrawsLong ∧ r.Holds g) s → StarveRound p k g s 4
  | drawn : s.words = some (next g) → HasPort p (Port.Holds g) s →
      HasPort k (fun r => r.pending = [] ∧ r.ctx.ph = .done) s → StarveRound p k g s 5
  | stale : s.words = some (next g) → HasPort p (Port.Holds g) s → HasPort k (Port.Awaits []) s →
      StarveRound p k g s 6

/-- The state that has moved on is not the one before (41_advance.md R99). -/
theorem State.Inv.next_ne {s : State} {g : Snapshot} (hs : s.Inv) (hw : s.words = some (next g)) : next g ≠ g :=
  fun he => next_ne_self (hs.notBothZero _ hw) (congrArg next he)

/-- One turn of the round. -/
theorem StarveRound.turn {p k i : Nat} {g : Snapshot} {s : State} (hs : s.Inv) (hpk : p ≠ k)
    (h : StarveRound p k g s i) :
    ∃ s' g', takeTurn (starveTurn p k i) s = .next s' ∧ StarveRound p k g' s' ((i + 1) % 7) := by
  cases h with
  | fetching hw hp hk =>
    obtain ⟨q, hq, hph⟩ := hp
    obtain ⟨g', i, hw', -, -, hturn⟩ := hs.snapshot hq hph
    obtain rfl := Option.some.inj (hw.symm.trans hw')
    exact ⟨_, g, hturn, .held rfl ⟨_, State.afterStep_port_same hq _ _, rfl, rfl⟩
      (hk.afterStep_other hpk.symm _ _)⟩
  | held hw hp hk =>
    obtain ⟨r, hr, hidle, hpend⟩ := hk
    refine ⟨_, g, rfl, .presented hw (hp.atPort_other hpk _) ⟨_, State.atPort_port_same hr _, hidle, ?_⟩⟩
    simp [hpend]
  | presented hw hp hk =>
    obtain ⟨r, hr, hidle, hpend⟩ := hk
    have hd : decode (encode .nextLong) = .ok .nextLong := decode_encode _
    have hstep : RequesterStep s.ent s.words r s.words ((r.take (encode .nextLong) []).setPhase .fetch) :=
      .accept hidle hpend (.draw hd rfl (by simp [hw]))
    refine ⟨_, g, hstep.takeTurn_eq hr, .accepted hw (hp.afterStep_other hpk _ _)
      ⟨_, State.afterStep_port_same hr _ _, ⟨?_, rfl⟩, rfl⟩⟩
    exact (congrArg decode (packCmd_fields _)).trans hd
  | accepted hw hp hk =>
    obtain ⟨r, hr, hlong, hph⟩ := hk
    have hstep : SequencerStep s.words r s.words (r.holdSnapshot g) := .snapshot hph hlong.1 rfl hw
    exact ⟨_, g, hstep.takeTurn_eq hr, .bothHeld hw (hp.afterStep_other hpk _ _)
      ⟨_, State.afterStep_port_same hr _ _, hlong, rfl, rfl⟩⟩
  | bothHeld hw hp hk =>
    obtain ⟨r, hr, ⟨hd, hpend⟩, hph, rfl⟩ := hk
    have hstep := SequencerStep.commit hph hd rfl hw
    exact ⟨_, _, hstep.takeTurn_eq hr, .drawn rfl (hp.afterStep_other hpk _ _)
      ⟨_, State.afterStep_port_same hr _ _, hpend, rfl⟩⟩
  | drawn hw hp hk =>
    obtain ⟨r, hr, hpend, hph⟩ := hk
    have hstep : RequesterStep s.ent s.words r s.words r.handOver := .respond hph
    exact ⟨_, g, hstep.takeTurn_eq hr, .stale hw (hp.afterStep_other hpk _ _)
      ⟨_, State.afterStep_port_same hr _ _, rfl, hpend⟩⟩
  | stale hw hp hk =>
    obtain ⟨q, hq, hheld, hg⟩ := hp
    obtain ⟨w', q', hstep⟩ := (hs.of_port hq).exists_sequencerStep (.inr (.inl hheld))
    have hturn := hstep.takeTurn_eq hq
    cases hstep with
    | retry =>
      exact ⟨_, next g, hturn, .fetching hw ⟨_, State.afterStep_port_same hq _ _, rfl⟩
        (hk.afterStep_other hpk.symm _ _)⟩
    | commit _ _ _ hw' =>
      rw [hw, hg] at hw'
      exact absurd (Option.some.inj hw') (hs.next_ne hw)
    | snapshot hph | read hph => simp [hheld] at hph

/-- The schedule that goes round for ever. -/
def starveSchedule (p k : Nat) (n : Nat) : Turn := starveTurn p k (n % 7)

theorem starveSchedule_ne_reset (p k n : Nat) : starveSchedule p k n ≠ .reset := by
  unfold starveSchedule starveTurn
  split <;> exact Turn.noConfusion

/-- Turn `i` of a round of seven comes again and again. -/
theorem round_recurs (n : Nat) {i : Nat} (hi : i < 7) : n ≤ 7 * n + i ∧ (7 * n + i) % 7 = i := by
  omega

theorem starveSchedule_fair {p k p' : Nat} {i : Nat} (hi : i < 7) (ht : starveTurn p k i = .sequencer p') :
    SequencerFair (starveSchedule p k) p' := by
  intro n
  obtain ⟨hle, hmod⟩ := round_recurs n hi
  exact ⟨7 * n + i, hle, by rw [starveSchedule, hmod, ht]⟩

/-- The schedule keeps to the round. -/
theorem starveSchedule_round {p k : Nat} {g : Snapshot} {s : State} (hs : s.Inv) (hpk : p ≠ k)
    (h : StarveRound p k g s 0) (n : Nat) :
    ∃ u g', runUpTo (starveSchedule p k) n s = .next u ∧ StarveRound p k g' u (n % 7) := by
  induction n with
  | zero => exact ⟨s, g, rfl, h⟩
  | succ n ih =>
    obtain ⟨u, g', hrun, hround⟩ := ih
    obtain ⟨u', g'', hturn, hround'⟩ := hround.turn (runUpTo_inv hs hrun) hpk
    rw [Nat.mod_add_mod] at hround'
    exact ⟨u', g'', runUpTo_succ_eq_next.mpr ⟨u, hrun, hturn⟩, hround'⟩

/-- Port `p` stays in `FETCH` and `HELD` all the way round. -/
theorem StarveRound.drawing {p k i : Nat} {g : Snapshot} {s : State} (h : StarveRound p k g s i) :
    HasPort p (fun q => q.ctx.ph = .fetch ∨ q.ctx.ph = .held) s := by
  cases h with
  | fetching _ hp => exact hp.imp fun _ hq => hq.imp_right .inl
  | held _ hp | presented _ hp | accepted _ hp | bothHeld _ hp | drawn _ hp | stale _ hp =>
    exact hp.imp fun _ hq => hq.imp_right fun hheld => .inr hheld.1

/-- Turn 4 of the round is a draw of port `k`. -/
theorem StarveRound.draws {p k : Nat} {g : Snapshot} {s : State} (h : StarveRound p k g s 4) :
    drawOfTurn (.sequencer k) s = some (k, raw g) := by
  cases h with
  | bothHeld hw _ hk =>
    obtain ⟨r, hr, -, hheld, hg⟩ := hk
    exact drawOfTurn_of_fresh hr hheld hg hw

/-- Turn 6 of the round is a failed COMMIT of port `p`. -/
theorem StarveRound.fails {p k : Nat} {g : Snapshot} {s : State} (hs : s.Inv) (h : StarveRound p k g s 6) :
    FailedCommit p (.sequencer p) s := by
  cases h with
  | stale hw hp _ =>
    obtain ⟨q, hq, hheld, hg⟩ := hp
    refine ⟨rfl, q, hq, hheld, ?_⟩
    rw [hw, hg]
    exact fun he => hs.next_ne hw (Option.some.inj he)

end Sys2Proof.Machine
end

section
/-! SUPPORT. The statements about how a draw ends (41_advance.md R101, 70_reset_and_hazards.md R188), settled. -/

open Sys2Proof Sys2Proof.Machine

/-- Settles O60. First: once no other port draws, each turn of its sequencer ends the draw or leaves it fewer
turns to go. Second: the round of `starveTurn`, for ever. -/
theorem fairDrawEndsOnceOthersStopElseMayStarve : Obligations.FairDrawEndsOnceOthersStopElseMayStarve := by
  refine ⟨fun sched s p q hs hq hph hfair hreset ⟨N, hquiet⟩ => ?_,
    fun s p k q r hs hpk hq hph hr hidle hpend => ?_⟩
  · obtain hends | ⟨u, q', h⟩ := drawEnds_or_drawingAt hs hreset ⟨rfl, hq, hph⟩ N
    · exact hends
    · exact h.ends hs hreset hfair hquiet le_rfl
  · obtain ⟨g, -, hw, -⟩ := hs.snapshot hq hph
    have hstart : StarveRound p k g s 0 := .fetching hw ⟨q, hq, hph⟩ ⟨r, hr, hidle, hpend⟩
    have hround := starveSchedule_round hs hpk hstart
    refine ⟨starveSchedule p k, starveSchedule_ne_reset p k, starveSchedule_fair (i := 0) (by decide) rfl,
      starveSchedule_fair (i := 3) (by decide) rfl, fun n => ?_, fun n => ?_, fun n => ?_⟩
    · obtain ⟨u, g', hrun, h⟩ := hround n
      obtain ⟨q', hq'⟩ := h.drawing
      exact ⟨u, q', hrun, hq'⟩
    · obtain ⟨hle, hmod⟩ := round_recurs n (i := 6) (by decide)
      obtain ⟨u, g', hrun, h⟩ := hround (7 * n + 6)
      rw [hmod] at h
      refine ⟨7 * n + 6, u, hle, hrun, ?_⟩
      rw [starveSchedule, hmod]
      exact h.fails (runUpTo_inv hs hrun)
    · obtain ⟨hle, hmod⟩ := round_recurs n (i := 4) (by decide)
      obtain ⟨u, g', hrun, h⟩ := hround (7 * n + 4)
      rw [hmod] at h
      refine ⟨7 * n + 4, u, raw g', hle, hrun, ?_⟩
      rw [starveSchedule, hmod]
      exact h.draws

/-- Settles O59: the turns of others leave the snapshot and, as none of them draws, the words it was taken of. -/
theorem undisturbedCommitSucceeds : Obligations.UndisturbedCommitSucceeds := by
  intro ts s s1 s2 p q g hq hph hw hsnap hreset hp hdraws hrun
  obtain ⟨w', q', hstep, rfl⟩ := sequencerStep_of_drawing hsnap hq (.inl hph)
  cases hstep with
  | commit hph' | retry hph' | read hph' => simp [hph] at hph'
  | @snapshot g' i _ hd hc hw' =>
    obtain rfl := Option.some.inj (hw.symm.trans hw')
    obtain ⟨q2, hq2, hctx⟩ :=
      run_ctx_of_drawing hrun (State.afterStep_port_same hq _ _) (.inr rfl) hreset hp
    have hw2 : s2.words = some g := run_words_of_no_draw hrun hreset hw hdraws
    have hheld : q2.ctx.ph = .held := hctx ▸ rfl
    have hg : q2.ctx.snapshot = g := hctx ▸ rfl
    have hcommit : SequencerStep s2.words q2 (some (next q2.ctx.snapshot)) _ :=
      .commit hheld (hctx ▸ hd) hc (hg ▸ hw2)
    exact ⟨drawOfTurn_of_fresh hq2 hheld hg hw2, _, hcommit.takeTurn_eq hq2, by rw [hg]; rfl⟩
end

section
/-! SUPPORT. The answer of a single-draw command is that of the filter table (41_advance.md R104), and before seeding
it is `UNSEEDED` (60_exceptions.md R163). -/

namespace Sys2Proof.Machine

theorem exists_drawData {i : Instr} (hc : i.cmdClass = .draw) (hi : ∀ len, i ≠ .nextBytes len) (r : Word) :
    ∃ d, drawData i r = some d := by
  cases i
  case nextBytes len => exact absurd rfl (hi len)
  case seed1 | seed2 | seedE | getW0 | getW1 | copy => cases hc
  all_goals exact ⟨_, rfl⟩

theorem finishDraw_of_drawData {i : Instr} {r : Word} {d : Data} (h : drawData i r = some d) (q : Port) :
    finishDraw i r q = q.respond .ok d := by
  simp [finishDraw, h]

/-- A successful COMMIT answers what the filter table gives. -/
theorem commitAnswers_of_drawData {i : Instr} {result : Word → Data → Prop} (hc : i.cmdClass = .draw)
    (h : ∀ r, ∃ d, drawData i r = some d ∧ result r d) : CommitAnswers i result := by
  rintro s q _ hq hph hw rfl
  obtain ⟨d, hd, hresult⟩ := h (raw q.ctx.snapshot)
  exact ⟨d, hresult, by rw [exec_of_draw_held hc hq hph hw, finishDraw_of_drawData hd]⟩

theorem acceptRefuses_of_draw {i : Instr} (hc : i.cmdClass = .draw) : AcceptRefuses i .unseeded Unseeded := by
  intro s q hq hph hw
  have hadm : admission .draw s.seeded = .unseeded := by rw [State.seeded_of_no_words hw]; rfl
  rw [exec_of_draw hc, drawCommand_idle hq hph, accept_refused (by rw [hadm]; decide), hadm]

/-- What is to be shown of a single-draw command: how its word decodes, and its entry in the filter table. -/
theorem oneDrawRule_of_drawData {op : BitVec 5} {i : Word → Word → Instr} {result : Word → Word → Word → Data → Prop}
    (hd : ∀ a b, decodeFields op a b = .ok (i a b)) (hc : ∀ a b, (i a b).cmdClass = .draw)
    (h : ∀ a b r, ∃ d, drawData (i a b) r = some d ∧ result a b r d) : OneDrawRule op i result :=
  fun a b => ⟨(decode_packCmd op a b).trans (hd a b), commitAnswers_of_drawData (hc a b) (h a b),
    acceptRefuses_of_draw (hc a b)⟩

theorem step_of_schedule {s : State} {t : Turn} {rest : List Turn} (h : s.schedule = t :: rest) :
    step s = takeTurn t { s with schedule := rest } := by
  simp [step, h]

theorem decode_of_decodeTableWord {nbits w : Nat} {i : Instr} (h : decodeTableWord nbits w = some i) :
    decode (tableCmd nbits w) = .ok i := by
  cases hd : decode (tableCmd nbits w) with
  | error e => simp [decodeTableWord, hd] at h
  | ok j => simpa [decodeTableWord, hd] using h

end Sys2Proof.Machine
end

section
/-! SUPPORT. The statements about the single steps of 41_advance.md, settled. -/

open Sys2Proof Sys2Proof.Machine

/-- Settles O25: ACCEPT does to the port what its command starts with. -/
theorem drawCommandIsAdmitted : Obligations.DrawCommandIsAdmitted := by
  rintro i s q hc hq hph ⟨g, hw⟩
  rw [exec_of_draw_admitted hc hq hph (State.seeded_of_words hw)]
  refine ⟨fun hi => ?_, ?_, ?_⟩
  · obtain ⟨len, rfl⟩ | ⟨-, hstart, -⟩ := draw_kinds hc
    · exact absurd rfl (hi len)
    · rw [hstart]
  · rintro len rfl hlen
    rw [startDraw_nextBytes, startBytes, if_neg hlen]
  · rintro rfl
    rfl

/-- Settles O39: the command's meaning takes its answer from the filter table. -/
theorem commitAppliesTheFilterTable : Obligations.CommitAppliesTheFilterTable := by
  refine fun i hc hi => commitAnswers_of_drawData hc fun r => ?_
  obtain ⟨d, hd⟩ := exists_drawData hc hi r
  exact ⟨d, hd, hd⟩

/-- Settles O7: the turn latches the word and runs it. -/
theorem acceptStepRunsTheDecodedCommand : Obligations.AcceptStepRunsTheDecodedCommand := by
  intro s p rest q c cs i hsched hq hph hpend hd
  have hturn := takeTurn_requester_of_idle (s := { s with schedule := rest }) hq hph hpend
  exact (step_of_schedule hsched).trans (hturn.trans (runCommand_of_decode hd _))

/-- Settles O8: the turn runs the word in the context registers. -/
theorem sequencerStepRunsTheLatchedCommand : Obligations.SequencerStepRunsTheLatchedCommand := by
  intro s p rest q i hsched hq hph hd
  have hturn := takeTurn_sequencer_of_inFlight (s := { s with schedule := rest }) hq hph
  exact (step_of_schedule hsched).trans (hturn.trans (runCommand_of_decode hd _))

/-- Settles O9: the word placed is the one presented on the idle port 0, whose requester has the next turn. -/
theorem placedWordIsRunNext : Obligations.PlacedWordIsRunNext := by
  rintro ⟨words, ports, ent, active, schedule⟩ q qs nbits w i rfl hd
  exact acceptStepRunsTheDecodedCommand _ 0 schedule (q.presenting (tableCmd nbits w)) _ q.pending i rfl rfl rfl
    rfl (decode_of_decodeTableWord hd)

/-- Settles O14: the rotations of the model are the library's. -/
theorem advanceIsTheStatedFormula : Obligations.AdvanceIsTheStatedFormula := by
  refine fun a b => ⟨rfl, ?_⟩
  simp only [next, rotl_eq_rotateLeft _ (by decide : 55 < 64), rotl_eq_rotateLeft _ (by decide : 36 < 64)]

/-- Settles O23: ACCEPT on a seeded block admits the command. -/
theorem readCommandIsAdmitted : Obligations.ReadCommandIsAdmitted := by
  rintro i s q hc hq hph ⟨g, hw⟩
  exact exec_of_read_admitted hc hq hph (State.seeded_of_words hw)

/-- Settles O26: the step of a draw-class command in `FETCH` is SNAPSHOT. -/
theorem snapshotTakesBothWords : Obligations.SnapshotTakesBothWords :=
  fun _ _ _ _ hc hq hph hw => exec_of_draw_fetch hc hq hph hw

/-- Settles O27: a difference in either word is a difference of the snapshot. -/
theorem failedCommitChangesOnlyThePhase : Obligations.FailedCommitChangesOnlyThePhase := by
  intro i s q g hc hq hph hw hne
  have hg : g ≠ q.ctx.snapshot := by
    rintro rfl
    exact hne.elim (absurd rfl) (absurd rfl)
  exact exec_of_draw_retry hc hq hph hw hg

/-- Settles O28, by its entry in the filter table. -/
theorem nextLongAnswersTheRawValue : Obligations.NextLongAnswersTheRawValue :=
  oneDrawRule_of_drawData (fun _ _ => rfl) (fun _ _ => rfl) fun _ _ _ => ⟨_, rfl, rfl⟩

/-- Settles O45: the requester's turn in `DONE` is RESPOND. -/
theorem respondHandsTheResponseOver : Obligations.RespondHandsTheResponseOver :=
  fun s _ _ hq hph => RequesterStep.takeTurn_eq (s := s) (.respond hph) hq
end

section
/-! SUPPORT. Scaling a signed bound `b` by a fraction `u / m` below 1, as R114 and R117 of 42_integer_filters.md do:
`b * u / m` rounded toward minus infinity lies between 0 and `b`, and so fits the width of the bound. -/

namespace Sys2Proof.Machine

/-- The results that a bounded draw can have, by the sign of its bound `b` (R115, R117). -/
structure InRangeOf (b v : Int) : Prop where
  pos : 0 < b → 0 ≤ v ∧ v ≤ b - 1
  zero : b = 0 → v = 0
  neg : b < 0 → b ≤ v ∧ v ≤ 0

theorem scaled_inRangeOf (b : Int) {u m : Int} (hu : 0 ≤ u) (hm : u < m) : InRangeOf b (b * u / m) where
  pos hb := ⟨Int.ediv_nonneg (mul_nonneg hb.le hu) (by omega),
    Int.le_sub_one_of_lt (Int.ediv_lt_of_lt_mul (by omega) (mul_lt_mul_of_pos_left hm hb))⟩
  zero hb := by rw [hb, zero_mul, Int.zero_ediv]
  neg hb := ⟨Int.le_ediv_of_mul_le (by omega) (mul_le_mul_of_nonpos_left hm.le hb.le),
    Int.ediv_nonpos_of_nonpos_of_neg (mul_nonpos_of_nonpos_of_nonneg hb.le hu) (by omega)⟩

/-- A negative bound is scaled to 0 by the fraction 0 only: any other is rounded down to -1 or less. -/
theorem scaled_eq_zero_iff {b u m : Int} (hb : b < 0) (hu : 0 ≤ u) (hm : u < m) : b * u / m = 0 ↔ u = 0 := by
  refine ⟨fun h => ?_, fun h => by rw [h, mul_zero, Int.zero_ediv]⟩
  have hnonneg : 0 ≤ b * u := (Int.ediv_nonneg_iff_of_pos (by omega)).mp h.ge
  exact hu.antisymm' (nonpos_of_mul_nonneg_right hnonneg hb)

section
variable {w : Nat} {lo hi bound u : BitVec w} {v : Int}

/-- A result of a bounded draw fits the width of its bound. -/
theorem InRangeOf.toInt_ofInt (hw : 0 < w) (h : InRangeOf bound.toInt v) : (BitVec.ofInt w v).toInt = v := by
  have hlt : bound.toInt < 2 ^ (w - 1) := BitVec.toInt_lt
  have hle := bound.le_toInt
  have hpow : (0 : Int) < 2 ^ (w - 1) := by positivity
  obtain ⟨hpos, hzero, hneg⟩ := h
  exact BitVec.toInt_ofInt_eq_self hw (by omega) (by omega)

theorem toInt_sub_of_fits (hlo : -2 ^ (w - 1) ≤ hi.toInt - lo.toInt) (hhi : hi.toInt - lo.toInt < 2 ^ (w - 1)) :
    (hi - lo).toInt = hi.toInt - lo.toInt :=
  BitVec.toInt_sub_of_not_ssubOverflow (by simp [BitVec.ssubOverflow, hlo, hhi])

/-- Where `hi - lo` does not wrap, adding the drawn value to `lo` does not either: the sum lies between the two. -/
theorem toInt_add_drawn (hd : (hi - lo).toInt = hi.toInt - lo.toInt) (h : InRangeOf (hi - lo).toInt u.toInt) :
    (lo + u).toInt = lo.toInt + u.toInt := by
  have hltLo : lo.toInt < 2 ^ (w - 1) := BitVec.toInt_lt
  have hltHi : hi.toInt < 2 ^ (w - 1) := BitVec.toInt_lt
  have hleLo := lo.le_toInt
  have hleHi := hi.le_toInt
  obtain ⟨hpos, hzero, hneg⟩ := h
  refine BitVec.toInt_add_of_not_saddOverflow ?_
  simp only [BitVec.saddOverflow, Bool.or_eq_true, decide_eq_true_eq]
  omega

/-- The range of a ranged draw (R116, R118), at any width. -/
theorem ranged_in_range (lo hi : BitVec w) (h : InRangeOf (hi - lo).toInt u.toInt) :
    (lo.toInt < hi.toInt → hi.toInt - lo.toInt < 2 ^ (w - 1) →
      lo.toInt ≤ (lo + u).toInt ∧ (lo + u).toInt ≤ hi.toInt - 1) ∧
    (lo = hi → lo + u = lo) ∧
    (hi.toInt < lo.toInt → -2 ^ (w - 1) ≤ hi.toInt - lo.toInt →
      hi.toInt ≤ (lo + u).toInt ∧ (lo + u).toInt ≤ lo.toInt) := by
  have hpow : (0 : Int) < 2 ^ (w - 1) := by positivity
  refine ⟨fun hlt hfits => ?_, ?_, fun hlt hfits => ?_⟩
  · have hd : (hi - lo).toInt = hi.toInt - lo.toInt := toInt_sub_of_fits (by omega) hfits
    have := h.pos (by omega)
    rw [toInt_add_drawn hd h]
    omega
  · rintro rfl
    have hu : u = 0#w := BitVec.eq_of_toInt_eq (by rw [h.zero (by simp), BitVec.toInt_zero])
    rw [hu, BitVec.add_zero]
  · have hd : (hi - lo).toInt = hi.toInt - lo.toInt := toInt_sub_of_fits hfits (by omega)
    have := h.neg (by omega)
    rw [toInt_add_drawn hd h]
    omega

end

end Sys2Proof.Machine
end

section
/-! SUPPORT. What each integer filter of 42_integer_filters.md computes, over the integers. -/

namespace Sys2Proof.Machine

theorem topBits_eq_div (r : Word) : topBits r = r.toNat / 2 ^ 33 := by
  rw [topBits, BitVec.toNat_ushiftRight, Nat.shiftRight_eq_div_pow]

theorem topBits_lt (r : Word) : (topBits r : Int) < 2 ^ 31 := by
  have := r.isLt
  rw [topBits_eq_div]
  omega

theorem word_toNat_lt (r : Word) : (r.toNat : Int) < 2 ^ 64 := by exact_mod_cast r.isLt

theorem scaled_topBits_inRangeOf (bound : Half) (r : Word) :
    InRangeOf bound.toInt (bound.toInt * topBits r / 2 ^ 31) :=
  scaled_inRangeOf _ (Int.natCast_nonneg _) (topBits_lt r)

theorem scaled_word_inRangeOf (bound r : Word) : InRangeOf bound.toInt (bound.toInt * r.toNat / 2 ^ 64) :=
  scaled_inRangeOf _ (Int.natCast_nonneg _) (word_toNat_lt r)

theorem filterIntB_toInt (bound : Half) (r : Word) :
    (filterIntB bound r).toInt = bound.toInt * topBits r / 2 ^ 31 :=
  (scaled_topBits_inRangeOf bound r).toInt_ofInt (by decide)

theorem filterLongB_toInt (bound r : Word) : (filterLongB bound r).toInt = bound.toInt * r.toNat / 2 ^ 64 := by
  rw [filterLongB, mul_comm]
  exact (scaled_word_inRangeOf bound r).toInt_ofInt (by decide)

theorem filterIntB_inRangeOf (bound : Half) (r : Word) : InRangeOf bound.toInt (filterIntB bound r).toInt :=
  filterIntB_toInt bound r ▸ scaled_topBits_inRangeOf bound r

theorem filterLongB_inRangeOf (bound r : Word) : InRangeOf bound.toInt (filterLongB bound r).toInt :=
  filterLongB_toInt bound r ▸ scaled_word_inRangeOf bound r

theorem filterIntB_eq_zero_iff {bound : Half} (hb : bound.toInt < 0) (r : Word) :
    (filterIntB bound r).toInt = 0 ↔ topBits r = 0 := by
  rw [filterIntB_toInt, scaled_eq_zero_iff hb (Int.natCast_nonneg _) (topBits_lt r), Int.natCast_eq_zero]

theorem filterLongB_eq_zero_iff {bound : Word} (hb : bound.toInt < 0) (r : Word) :
    (filterLongB bound r).toInt = 0 ↔ r = 0 := by
  rw [filterLongB_toInt, scaled_eq_zero_iff hb (Int.natCast_nonneg _) (word_toNat_lt r), Int.natCast_eq_zero,
    ← BitVec.toNat_inj]
  rfl

/-- The top `n` bits of the low half are the bits from `32 - n` up to 31 (R113). -/
theorem lowHalf_shift_eq_extract (r : Word) {n : Nat} (hn : n ≤ 32) :
    lowHalf r >>> (32 - n) = (r.extractLsb' (32 - n) n).setWidth 32 := by
  refine BitVec.eq_of_getLsbD_eq fun i hi => ?_
  have hbit : 32 - n + i < 32 ↔ i < n := by omega
  simp [lowHalf, hi, hbit]

theorem placeBool_msb (r : Word) : placeBool r.msb = if r.toInt < 0 then 1 else 0 := by
  rw [BitVec.msb_eq_toInt]
  by_cases h : r.toInt < 0 <;> simp [placeBool, h]

/-- A signed word is its signed high half and its unsigned low half. -/
theorem toInt_eq_halves (v : Word) :
    v.toInt = 2 ^ 32 * (v.extractLsb' 32 32).toInt + (v.toNat % 2 ^ 32 : Nat) := by
  have happend : v.extractLsb' 32 32 ++ v.extractLsb' 0 32 = v := by
    rw [BitVec.extractLsb'_append_extractLsb'_eq_extractLsb' (by decide)]
    simp
  conv_lhs => rw [← happend, BitVec.toInt_append]
  simp

/-- The high part of a product from the products of the parts of its factors (R120): the low product counts only by
what it carries out of its own low half. -/
theorem highPart_of_fourProducts (ul uh bl bh : Int) :
    (2 ^ 32 * bh + bl) * (2 ^ 32 * uh + ul) / 2 ^ 64 =
      uh * bh + (uh * bl + ul * bh + ul * bl / 2 ^ 32) / 2 ^ 32 := by
  have hsplit : (2 ^ 32 * bh + bl) * (2 ^ 32 * uh + ul) =
      ul * bl + 2 ^ 32 * (uh * bl + ul * bh + 2 ^ 32 * (uh * bh)) := by ring
  calc (2 ^ 32 * bh + bl) * (2 ^ 32 * uh + ul) / 2 ^ 64
      = (ul * bl + 2 ^ 32 * (uh * bl + ul * bh + 2 ^ 32 * (uh * bh))) / 2 ^ 32 / 2 ^ 32 := by
        rw [hsplit, Int.ediv_ediv_of_nonneg (by decide)]
        rfl
    _ = (uh * bl + ul * bh + ul * bl / 2 ^ 32 + 2 ^ 32 * (uh * bh)) / 2 ^ 32 := by
        rw [Int.add_mul_ediv_left _ _ (by decide)]
        congr 1
        ring
    _ = uh * bh + (uh * bl + ul * bh + ul * bl / 2 ^ 32) / 2 ^ 32 := by
        rw [Int.add_mul_ediv_left _ _ (by decide), add_comm]

end Sys2Proof.Machine
end

section
/-! SUPPORT. The statements about the integer filters of 42_integer_filters.md, settled. -/

open Sys2Proof Sys2Proof.Machine

/-- Settles O29, by its entry in the filter table. -/
theorem nextIntAnswersTheLowHalf : Obligations.NextIntAnswersTheLowHalf :=
  oneDrawRule_of_drawData (fun _ _ => rfl) (fun _ _ => rfl) fun _ _ r =>
    ⟨_, rfl, by rw [← lowHalf_eq_setWidth]; rfl⟩

/-- Settles O30: the shift of the low half leaves the bits named. -/
theorem nextBitsAnswersTheTopOfTheLowHalf : Obligations.NextBitsAnswersTheTopOfTheLowHalf := by
  refine oneDrawRule_of_drawData (fun a b => ?_) (fun _ _ => rfl) fun a _ r => ⟨_, rfl, ?_⟩
  · rw [decodeFields_nextBits, lowFive_eq_setWidth]
  · rintro n rfl
    refine ⟨filterBits (a.setWidth 5) r, ?_, rfl⟩
    rw [filterBits, BitVec.toNat_setWidth, lowHalf_shift_eq_extract r (by omega)]

/-- Settles O31: the sign bit is set exactly when the value is negative. -/
theorem nextBoolTestsTheSign : Obligations.NextBoolTestsTheSign :=
  oneDrawRule_of_drawData (fun _ _ => rfl) (fun _ _ => rfl) fun _ _ r => ⟨_, rfl, placeBool_msb r⟩

/-- Settles O32: the scaled bound fits 32 bits. -/
theorem nextIntBoundedIsTheScaledTopBits : Obligations.NextIntBoundedIsTheScaledTopBits := by
  refine oneDrawRule_of_drawData (fun a b => ?_) (fun _ _ => rfl) fun a _ r => ⟨_, rfl, _, ?_, rfl⟩
  · rw [decodeFields_nextIntB, lowHalf_eq_setWidth]
  · rw [filterIntB_toInt, topBits_eq_div]

/-- Settles O33: the drawn value is that of `NEXTINT.B`. -/
theorem nextIntRangedAddsTheBounded : Obligations.NextIntRangedAddsTheBounded := by
  refine oneDrawRule_of_drawData (fun a b => ?_) (fun _ _ => rfl) fun a b r => ⟨_, rfl, _, ?_, rfl⟩
  · rw [decodeFields_nextIntR, lowHalf_eq_setWidth, lowHalf_eq_setWidth]
  · rw [filterIntB_toInt, topBits_eq_div]

/-- Settles O34: the scaled bound fits 64 bits. -/
theorem nextLongBoundedIsTheHighProduct : Obligations.NextLongBoundedIsTheHighProduct :=
  oneDrawRule_of_drawData (fun _ _ => rfl) (fun _ _ => rfl) fun _ _ _ =>
    ⟨_, rfl, _, by rw [filterLongB_toInt, mul_comm], rfl⟩

/-- Settles O35: the drawn value is that of `NEXTLONG.B`. -/
theorem nextLongRangedAddsTheBounded : Obligations.NextLongRangedAddsTheBounded :=
  oneDrawRule_of_drawData (fun _ _ => rfl) (fun _ _ => rfl) fun _ _ _ =>
    ⟨_, rfl, _, by rw [filterLongB_toInt, mul_comm], rfl⟩

/-- Settles O40: the bound is scaled by `h / 2^31`, a fraction below 1. -/
theorem nextIntBoundedStaysInRange : Obligations.NextIntBoundedStaysInRange := by
  intro bound r
  obtain ⟨hpos, hzero, hneg⟩ := filterIntB_inRangeOf bound r
  refine ⟨hpos, hzero, fun hb => ?_, fun hb => ?_⟩
  · rw [← topBits_eq_div]
    exact ⟨(hneg hb).1, (hneg hb).2, filterIntB_eq_zero_iff hb r⟩
  · rw [filterIntB_toInt, hb, topBits_eq_div]
    omega

/-- Settles O42: the bound is scaled by `r / 2^64`, a fraction below 1. -/
theorem nextLongBoundedStaysInRange : Obligations.NextLongBoundedStaysInRange := by
  intro bound r
  obtain ⟨hpos, hzero, hneg⟩ := filterLongB_inRangeOf bound r
  refine ⟨hpos, hzero, fun hb => ⟨(hneg hb).1, (hneg hb).2, filterLongB_eq_zero_iff hb r⟩, fun hb hr => ?_⟩
  have hb' : bound.toInt < 0 := by omega
  have hne : (filterLongB bound r).toInt ≠ 0 := mt (filterLongB_eq_zero_iff hb' r).mp hr
  have := hneg hb'
  omega

/-- Settles O41: at each width the value added to `lo` is in the range of `hi - lo`. -/
theorem rangedDrawsStayInRange : Obligations.RangedDrawsStayInRange :=
  ⟨fun lo hi r => ranged_in_range lo hi (filterIntB_inRangeOf (hi - lo) r),
    fun lo hi r => ranged_in_range lo hi (filterLongB_inRangeOf (hi - lo) r)⟩

/-- Settles O43: both factors are split into a high and a low half. -/
theorem fourProductsGiveTheHighWord : Obligations.FourProductsGiveTheHighWord := by
  rintro bound r _ _ _ _ _ _ _ _ _ rfl rfl rfl rfl rfl rfl rfl rfl rfl
  have hr : (r.toNat : Int) = 2 ^ 32 * (r.toNat / 2 ^ 32 : Nat) + (r.toNat % 2 ^ 32 : Nat) := by omega
  rw [filterLongB_toInt, toInt_eq_halves bound, hr, highPart_of_fourProducts]
end

section
/-! SUPPORT. The bit patterns of 43_float_filters.md: a number `m / 2^(f+1)` with `0 < m < 2^(f+1)`, as a normal
number of a format with `e` exponent and `f` fraction bits (R130). Binary64 is `e = 11`, `f = 52`; binary32 is
`e = 8`, `f = 23`. -/

namespace Sys2Proof.Machine

/-- The bit `k` that bounds `m` as its most significant 1 is the one the model finds. -/
theorem leadingOne_eq {m k : Nat} (hle : 2 ^ k ≤ m) (hlt : m < 2 ^ (k + 1)) :
    ∀ {n : Nat}, k ≤ n → leadingOne n m = k
  | 0, hk => (Nat.le_zero.mp hk).symm
  | n + 1, hk => by
    obtain rfl | hk := Nat.eq_or_lt_of_le hk
    · rw [leadingOne, if_pos (Nat.testBit_of_two_pow_le_and_two_pow_add_one_gt hle hlt)]
    · have hclear : m.testBit (n + 1) = false :=
        Nat.testBit_lt_two_pow (hlt.trans_le (Nat.pow_le_pow_right (by decide) hk))
      rw [leadingOne, hclear, if_neg Bool.false_ne_true, leadingOne_eq hle hlt (Nat.le_of_lt_succ hk)]

/-- Shifting `m` until its leading bit `k` stands at bit `f`, and dropping that bit, leaves the fraction. -/
theorem shifted_mod_eq_sub {m k f : Nat} (hle : 2 ^ k ≤ m) (hlt : m < 2 ^ (k + 1)) (hk : k ≤ f) :
    m * 2 ^ (f - k) % 2 ^ f = m * 2 ^ (f - k) - 2 ^ f := by
  have hpow : 2 ^ k * 2 ^ (f - k) = 2 ^ f := by rw [← pow_add, Nat.add_sub_cancel' hk]
  have hlow : 2 ^ f ≤ m * 2 ^ (f - k) := hpow ▸ Nat.mul_le_mul_right _ hle
  have hhigh : m * 2 ^ (f - k) < 2 * 2 ^ f := by
    rw [← hpow, ← mul_assoc, ← pow_succ']
    exact Nat.mul_lt_mul_of_pos_right hlt (by positivity)
  rw [Nat.mod_eq_sub_mod hlow, Nat.mod_eq_of_lt (by omega)]

/-- The fields of the pattern `w` for a number `m` with leading bit `k` (R131, R133): `base` is the exponent of
`m = 1`. -/
structure IsFraction (e f base m k : Nat) (w : BitVec (1 + e + f)) : Prop where
  sign : w.msb = false
  exponent : (w.extractLsb' f e).toNat = base + k
  fraction : (w.extractLsb' 0 f).toNat = m * 2 ^ (f - k) - 2 ^ f

section
variable {e f base m k : Nat}

theorem isFraction_append (hle : 2 ^ k ≤ m) (hlt : m < 2 ^ (k + 1)) (hk : k ≤ f) (hexp : base + k < 2 ^ e) :
    IsFraction e f base m k
      ((0 : BitVec 1) ++ BitVec.ofNat e (base + k) ++ BitVec.ofNat f (m * 2 ^ (f - k))) where
  sign := by simp [BitVec.msb_append]
  exponent := by
    rw [BitVec.extractLsb'_append_eq_of_le le_rfl, Nat.sub_self, BitVec.extractLsb'_append_eq_right,
      BitVec.toNat_ofNat, Nat.mod_eq_of_lt hexp]
  fraction := by
    rw [BitVec.extractLsb'_append_eq_right, BitVec.toNat_ofNat, shifted_mod_eq_sub hle hlt hk]

/-- The value of the pattern (R130, R132), multiplied out: the significand is `m` shifted up by `f - k` bits, and the
exponent undoes the shift. -/
theorem IsFraction.exact {bias : Nat} {w : BitVec (1 + e + f)} (h : IsFraction e f base m k w) (hle : 2 ^ k ≤ m)
    (hk : k ≤ f) (hbias : bias = base + (f + 1)) :
    (2 ^ f + (w.extractLsb' 0 f).toNat) * 2 ^ (w.extractLsb' f e).toNat * 2 ^ (f + 1) = m * 2 ^ bias * 2 ^ f := by
  have hpow : 2 ^ (f - k) * 2 ^ k = 2 ^ f := by rw [← pow_add, Nat.sub_add_cancel hk]
  have hlow : 2 ^ f ≤ m * 2 ^ (f - k) := by
    rw [← hpow, mul_comm]
    exact Nat.mul_le_mul_right _ hle
  rw [h.exponent, h.fraction, Nat.add_sub_cancel' hlow, hbias]
  calc m * 2 ^ (f - k) * 2 ^ (base + k) * 2 ^ (f + 1)
      = m * 2 ^ (base + (f + 1)) * (2 ^ (f - k) * 2 ^ k) := by ring
    _ = m * 2 ^ (base + (f + 1)) * 2 ^ f := by rw [hpow]

theorem leadingBit_le (hle : 2 ^ k ≤ m) (hf : m < 2 ^ (f + 1)) : k ≤ f :=
  Nat.le_of_lt_succ ((Nat.pow_lt_pow_iff_right (by decide)).mp (hle.trans_lt hf))

/-- A non-zero number below `2^(f+1)` has a leading bit, at `f` or below. -/
theorem exists_leadingBit (hm : m ≠ 0) (hf : m < 2 ^ (f + 1)) : ∃ k ≤ f, 2 ^ k ≤ m ∧ m < 2 ^ (k + 1) := by
  obtain ⟨hle, hlt⟩ := (Nat.log2_eq_iff hm).mp rfl
  exact ⟨m.log2, leadingBit_le hle hf, hle, hlt⟩

end

section
variable {r : Word} {k : Nat}

theorem filterDouble_eq_zero (hm : r.toNat % 2 ^ 53 = 0) : filterDouble r = 0 := by
  rw [filterDouble, doublePattern, BitVec.extractLsb'_toNat, Nat.shiftRight_zero, if_pos hm]

theorem filterFloat_eq_zero (hm : r.toNat % 2 ^ 24 = 0) : filterFloat r = 0 := by
  rw [filterFloat, floatPattern, BitVec.extractLsb'_toNat, Nat.shiftRight_zero, if_pos hm]

theorem filterDouble_isFraction (hle : 2 ^ k ≤ r.toNat % 2 ^ 53) (hlt : r.toNat % 2 ^ 53 < 2 ^ (k + 1)) :
    IsFraction 11 52 970 (r.toNat % 2 ^ 53) k (filterDouble r) := by
  have hk : k ≤ 52 := leadingBit_le hle (Nat.mod_lt _ (by decide))
  have hm : r.toNat % 2 ^ 53 ≠ 0 := ((Nat.two_pow_pos k).trans_le hle).ne'
  rw [filterDouble, doublePattern, BitVec.extractLsb'_toNat, Nat.shiftRight_zero, if_neg hm,
    leadingOne_eq hle hlt hk]
  exact isFraction_append hle hlt hk (by omega)

theorem filterFloat_isFraction (hle : 2 ^ k ≤ r.toNat % 2 ^ 24) (hlt : r.toNat % 2 ^ 24 < 2 ^ (k + 1)) :
    IsFraction 8 23 103 (r.toNat % 2 ^ 24) k (filterFloat r) := by
  have hk : k ≤ 23 := leadingBit_le hle (Nat.mod_lt _ (by decide))
  have hm : r.toNat % 2 ^ 24 ≠ 0 := ((Nat.two_pow_pos k).trans_le hle).ne'
  rw [filterFloat, floatPattern, BitVec.extractLsb'_toNat, Nat.shiftRight_zero, if_neg hm,
    leadingOne_eq hle hlt hk]
  exact isFraction_append hle hlt hk (by omega)

end

end Sys2Proof.Machine
end

section
/-! SUPPORT. The statements about the float filters of 43_float_filters.md, settled. -/

open Sys2Proof Sys2Proof.Machine

/-- Settles O36, by its entry in the filter table: the fields of the pattern are those of `m` at its leading bit. -/
theorem nextDoubleAnswersTheFraction : Obligations.NextDoubleAnswersTheFraction := by
  refine oneDrawRule_of_drawData (fun _ _ => rfl) (fun _ _ => rfl) fun _ _ r =>
    ⟨_, rfl, filterDouble r, rfl, filterDouble_eq_zero, ?_⟩
  rintro _ k rfl hle hlt
  obtain ⟨hsign, hexp, hfrac⟩ := filterDouble_isFraction hle hlt
  exact ⟨hsign, hexp, hfrac⟩

/-- Settles O37, by its entry in the filter table: the fields of the pattern are those of `m` at its leading bit. -/
theorem nextFloatAnswersTheFraction : Obligations.NextFloatAnswersTheFraction := by
  refine oneDrawRule_of_drawData (fun _ _ => rfl) (fun _ _ => rfl) fun _ _ r =>
    ⟨_, rfl, filterFloat r, rfl, filterFloat_eq_zero, ?_⟩
  rintro _ k rfl hle hlt
  obtain ⟨hsign, hexp, hfrac⟩ := filterFloat_isFraction hle hlt
  exact ⟨hsign, hexp, hfrac⟩

/-- Settles O44: each pattern has the fields of `m` at its leading bit, and those stand for `m` exactly. -/
theorem fractionsAreExact : Obligations.FractionsAreExact := by
  refine ⟨fun r hm => ?_, fun r hm => ?_⟩
  · obtain ⟨k, hk, hle, hlt⟩ := exists_leadingBit (f := 52) hm (Nat.mod_lt _ (by decide))
    have h := filterDouble_isFraction hle hlt
    have hexp := h.exponent
    exact ⟨h.sign, by omega, by omega, h.exact hle hk rfl⟩
  · obtain ⟨k, hk, hle, hlt⟩ := exists_leadingBit (f := 23) hm (Nat.mod_lt _ (by decide))
    have h := filterFloat_isFraction hle hlt
    have hexp := h.exponent
    exact ⟨h.sign, by omega, by omega, h.exact hle hk rfl⟩
end

section
/-! SUPPORT. `CLONE` (44_bytes_and_state_access.md R148): the answer of a `COPY`, and the `SEED2` of its data. -/

namespace Sys2Proof.Machine

/-- The READ of a `COPY` answers both words and leaves them (44_bytes_and_state_access.md R145). -/
theorem takeTurn_copy_of_read {p : Nat} {s : State} {q : Port} {g : Snapshot} (hq : s.ports[p]? = some q)
    (hph : q.ctx.ph = .read) (hop : q.ctx.op = 0x06) (hw : s.words = some g) :
    takeTurn (.sequencer p) s =
      .next (s.afterStep p (some g) (q.respond .ok (placePair g.s0 g.s1))) := by
  have hd : decode q.ctx.cmd = .ok .copy := by
    rw [Context.cmd, decode_packCmd, hop]
    rfl
  have hstep : SequencerStep s.words q s.words (q.respond .ok (placePair g.s0 g.s1)) := .read hph hd rfl hw
  rw [hstep.takeTurn_eq hq, hw]

/-- The operands of the second half of `CLONE` are the words of the `COPY`. -/
theorem cloneCommand_placePair (s0 s1 : Word) : cloneCommand (placePair s0 s1) = encode (.seed2 s0 s1) := by
  rw [cloneCommand, placePair, BitVec.extractLsb'_append_eq_right, BitVec.extractLsb'_append_eq_left]

theorem seed2Words_of_not_both_zero {g : Snapshot} (h : ¬(g.s0 = 0 ∧ g.s1 = 0)) : seed2Words g.s0 g.s1 = g :=
  if_neg h

/-- The ACCEPT of a seed-class command that is presented to an unseeded block stores its pair. -/
theorem takeTurn_seed_of_idle {p : Nat} {s : State} {q : Port} {i : Instr} {cs : List CmdWord}
    (hi : i.cmdClass = .seed) (hq : s.ports[p]? = some q) (hph : q.ctx.ph = .idle)
    (hpend : q.pending = encode i :: cs) (hw : s.words = none) :
    takeTurn (.requester p) s =
      .next (s.afterStep p (some (seedPair s.ent i)) ((q.take (encode i) cs).respond .ok 0)) :=
  RequesterStep.takeTurn_eq (.accept hph hpend (.seed (decode_encode i) hi hw)) hq

end Sys2Proof.Machine
end

section
/-! SUPPORT. The statements about engine equality and `CLONE` (44_bytes_and_state_access.md), settled. -/

open Sys2Proof Sys2Proof.Machine

/-- Settles O54: the draws of a run, and the words after it, are fixed by the words before it and the number of
draws. -/
theorem equalEnginesGiveEqualSequences : Obligations.EqualEnginesGiveEqualSequences := by
  rintro ts us s s' t t' hts hus ⟨g, hs, ht⟩ hrun hrun' hlen
  obtain ⟨hdraws, hwords⟩ := run_draws hts hs hrun
  obtain ⟨hdraws', hwords'⟩ := run_draws hus ht hrun'
  rw [← hlen] at hdraws' hwords'
  exact ⟨hdraws.trans hdraws'.symm, _, hwords, hwords'⟩

/-- Settles O55: the `COPY` answers both words, and they are not both zero, so `SEED2` stores them as they are. -/
theorem cloneMakesAnEqualEngine : Obligations.CloneMakesAnEqualEngine := by
  intro e1 e1' e2 q1 q2 g p1 p2 cs hinv hw hq1 hread hop hcopy hunseeded hq2 hidle
  rw [takeTurn_copy_of_read hq1 hread hop hw] at hcopy
  obtain rfl := Host.Outcome.next.inj hcopy
  refine ⟨_, State.afterStep_port_same hq1 _ _, rfl, rfl, fun hpend => ?_⟩
  replace hpend : q2.pending = encode (.seed2 g.s0 g.s1) :: cs := cloneCommand_placePair g.s0 g.s1 ▸ hpend
  have hpair : seedPair e2.ent (.seed2 g.s0 g.s1) = g := seed2Words_of_not_both_zero (hinv.notBothZero g hw)
  have hseed := takeTurn_seed_of_idle rfl hq2 hidle hpend hunseeded
  rw [hpair] at hseed
  exact ⟨_, hseed, ⟨g, rfl, rfl⟩, rfl⟩
end

section
/-! SUPPORT. How ACCEPT decides the status (60_exceptions.md R161, R166): the turn that accepts a word is the
`AcceptStep` of that word, and a command whose class the flag does not admit is refused with no other effect. -/

namespace Sys2Proof.Machine

/-- A draw-class or read-class command is refused before seeding (60_exceptions.md R163). -/
theorem admission_of_unseeded {k : CmdClass} {s : State} (hk : k = .draw ∨ k = .read) (hw : s.words = none) :
    admission k s.seeded = .unseeded := by
  rw [State.seeded_of_no_words hw]
  rcases hk with rfl | rfl <;> rfl

/-- A seed-class command is refused after seeding (60_exceptions.md R164). -/
theorem admission_seed_of_words {s : State} (hw : s.words ≠ none) : admission .seed s.seeded = .alreadySeeded := by
  obtain ⟨g, hg⟩ := Option.ne_none_iff_exists'.mp hw
  rw [State.seeded_of_words hg]
  rfl

/-- The step of a command on an idle port is the ACCEPT of its class. -/
theorem exec_idle (i : Instr) {q : Port} {s : State} (hq : s.port? = some q) (hph : q.ctx.ph = .idle) :
    ∃ k, exec i s = accept i.cmdClass k q s := by
  obtain ⟨k, hk⟩ := runCommand_idle (c := encode i) hq hph
  rw [runCommand_of_decode (decode_encode i), ← cmdClass_of_decode (decode_encode i)] at hk
  exact ⟨k, hk⟩

/-- A command that the flag does not admit is answered with its status and does nothing else. -/
theorem acceptRefuses_of_admission {i : Instr} {st : Status} {P : State → Prop} (hst : st ≠ .ok)
    (hadm : ∀ s, P s → admission i.cmdClass s.seeded = st) : AcceptRefuses i st P := by
  intro s q hq hph hs
  obtain ⟨k, hk⟩ := exec_idle i hq hph
  rw [hk, accept_refused ((hadm s hs).trans_ne hst), hadm s hs]

/-- A word whose class the flag does not admit is refused with the status decided. -/
theorem AcceptStep.refuse_with {ent : Word} {c : CmdWord} {s : State} {q : Port} {st : Status}
    (hadm : admission (classOf (opField c)) s.seeded = st) (hst : st ≠ .ok) :
    AcceptStep ent c s.words q s.words (q.respond st 0) := by
  subst hadm
  exact .refuse hst

/-- The turn of a requester with a word presented on an idle port makes the ACCEPT of that word. -/
theorem AcceptStep.takeTurn_eq {p : Nat} {q q' : Port} {s : State} {c : CmdWord} {cs : List CmdWord}
    {w' : Option Snapshot} (h : AcceptStep s.ent c s.words (q.take c cs) w' q') (hq : s.ports[p]? = some q)
    (hph : q.ctx.ph = .idle) (hpend : q.pending = c :: cs) :
    takeTurn (.requester p) s = .next (s.afterStep p w' q') :=
  RequesterStep.takeTurn_eq (.accept hph hpend h) hq

/-- What that turn leaves in the port and in the words. -/
theorem AcceptStep.outcome {p : Nat} {q q' : Port} {s s' : State} {c : CmdWord} {cs : List CmdWord}
    {w' : Option Snapshot} (h : AcceptStep s.ent c s.words (q.take c cs) w' q') (hq : s.ports[p]? = some q)
    (hph : q.ctx.ph = .idle) (hpend : q.pending = c :: cs) (ht : takeTurn (.requester p) s = .next s') :
    s'.ports[p]? = some q' ∧ s'.words = w' := by
  rw [h.takeTurn_eq hq hph hpend] at ht
  obtain rfl := Host.Outcome.next.inj ht
  exact ⟨State.afterStep_port_same hq _ _, rfl⟩

/-- An admitted draw-class command goes on to its draw, or is answered `OK` at once (41_advance.md R96). -/
theorem startDraw_fetches_or_answers (i : Instr) (q : Port) :
    (startDraw i q).ctx.ph = .fetch ∨
    (startDraw i q).ctx.ph = .done ∧ (startDraw i q).ctx.st = .ok ∧ (startDraw i q).ctx.res = 0 := by
  cases i
  case nextBytes len =>
    rw [startDraw_nextBytes, startBytes]
    split
    · exact .inr ⟨rfl, rfl, rfl⟩
    · exact .inl rfl
  all_goals exact .inl rfl

/-- The invariant says nothing of the turns to come. -/
theorem State.Inv.withSchedule {s : State} (h : s.Inv) (l : List Turn) : (s.withSchedule l).Inv :=
  ⟨h.somePort, h.notBothZero, h.eachPort⟩

end Sys2Proof.Machine
end

section
/-! SUPPORT. The statements about refusals (60_exceptions.md), settled. -/

open Sys2Proof Sys2Proof.Machine

/-- Settles O12: by the class of the word and the flag, the ACCEPT that the turn makes. -/
theorem statusIsDecidedInOrder : Obligations.StatusIsDecidedInOrder := by
  intro s s' p q c cs hq hph hpend h
  obtain ⟨_, q', ha⟩ := exists_acceptStep s.ent c s.words (q.take c cs)
  obtain ⟨hq', -⟩ := ha.outcome hq hph hpend h
  -- The step is one only: any ACCEPT of the word that the block can make is the one it made.
  have decided {w' : Option Snapshot} {r : Port} (ha : AcceptStep s.ent c s.words (q.take c cs) w' r) :
      q' = r ∧ s'.words = w' := by
    obtain ⟨hr, hw⟩ := ha.outcome hq hph hpend h
    exact ⟨Option.some.inj (hq'.symm.trans hr), hw⟩
  refine ⟨q', hq', fun hc => ?_, fun hc hw => ?_,
    fun hc hw => ?_, fun hc hw => ?_, fun hc hw => ?_, fun hc hw => ?_⟩
  · obtain ⟨rfl, hw'⟩ := decided (.refuse_with (st := .illegalOp) (by rw [hc]; rfl) (by decide))
    exact ⟨rfl, rfl, rfl, hw'⟩
  · obtain ⟨rfl, hw'⟩ := decided (.refuse_with (hc ▸ admission_seed_of_words hw) (by decide))
    exact ⟨rfl, rfl, rfl, hw'⟩
  · obtain ⟨rfl, hw'⟩ := decided (.refuse_with (admission_of_unseeded hc hw) (by decide))
    exact ⟨rfl, rfl, rfl, hw'.trans hw⟩
  · obtain ⟨i, hd, hi⟩ := exists_decode_of_class hc (by decide)
    obtain ⟨rfl, hw'⟩ := decided (.seed hd hi hw)
    exact ⟨rfl, rfl, rfl, by simp [hw']⟩
  · obtain ⟨i, hd, hi⟩ := exists_decode_of_class hc (by decide)
    obtain ⟨rfl, hw'⟩ := decided (.draw hd hi (Option.isSome_iff_ne_none.mpr hw))
    exact ⟨hw', startDraw_fetches_or_answers i _⟩
  · obtain ⟨i, hd, hi⟩ := exists_decode_of_class hc (by decide)
    obtain ⟨rfl, hw'⟩ := decided (.read hd hi (Option.isSome_iff_ne_none.mpr hw))
    exact ⟨rfl, hw'⟩

/-- Settles O13: a word that does not decode has a reserved opcode, whose ACCEPT is a refusal. -/
theorem reservedCommandIsAnsweredIllegalOp : Obligations.ReservedCommandIsAnsweredIllegalOp := by
  intro s p q c cs e hq hph hpend hd
  have hadm : admission (classOf (opField c)) s.seeded = .illegalOp := by rw [classOf_of_decode_error hd]; rfl
  exact (AcceptStep.refuse_with hadm (by decide)).takeTurn_eq hq hph hpend

/-- Settles O49: the step is the turn the schedule begins with, and under the invariant no turn stops the block. -/
theorem invariantMeansNoStop : Obligations.InvariantMeansNoStop := by
  intro s hs
  cases hsched : s.schedule with
  | nil => exact ⟨s, by simp [step, hsched]⟩
  | cons t rest =>
    rw [step_of_schedule hsched]
    exact (hs.withSchedule rest).exists_takeTurn t

/-- Settles O21: the flag decides before anything of the command is carried out. -/
theorem secondSeedIsRefused : Obligations.SecondSeedIsRefused := fun _ => acceptRefuses_of_seed

/-- Settles O24: the flag decides alike for both classes. -/
theorem unseededCommandIsRefused : Obligations.UnseededCommandIsRefused :=
  fun _ hc => acceptRefuses_of_admission (by decide) fun _ hw => admission_of_unseeded hc hw
end

section
/-! SUPPORT. A `NEXTBYTES` in flight (44_bytes_and_state_access.md R141, R142): how many draws it has made and which
bytes of its buffer they have filled, and that every turn until its response is taken keeps this so
(70_reset_and_hazards.md R189). -/

namespace Sys2Proof.Machine

/-- The draws among these that go to port `p`, in order. -/
def drawsTo (p : Nat) (ds : List (Nat × Word)) : List Word := (ds.filter fun d => d.1 = p).map Prod.snd

@[simp] theorem drawsTo_nil (p : Nat) : drawsTo p [] = [] := rfl

theorem drawsTo_append (p : Nat) (ds es : List (Nat × Word)) :
    drawsTo p (ds ++ es) = drawsTo p ds ++ drawsTo p es := by
  simp [drawsTo]

@[simp] theorem drawsTo_singleton_self (p : Nat) (r : Word) : drawsTo p [(p, r)] = [r] := by
  simp [drawsTo]

/-- A turn in which the sequencer of port `p` makes no step draws nothing for that port. -/
theorem drawsTo_drawOfTurn_eq_nil {t : Turn} {p : Nat} {s : State} {q : Port} (hq : s.ports[p]? = some q)
    (ht : t = .sequencer p → q.ctx.ph = .idle ∨ q.ctx.ph = .done) :
    drawsTo p (drawOfTurn t s).toList = [] := by
  cases hd : drawOfTurn t s with
  | none => rfl
  | some d =>
    obtain ⟨k, r⟩ := d
    have hk : k ≠ p := by
      rintro rfl
      have hph := ht (eq_sequencer_of_drawOfTurn hd)
      obtain rfl := eq_sequencer_of_drawOfTurn hd
      rw [drawOfTurn_eq_none_of_passes fun q' hq' => Option.some.inj (hq.symm.trans hq') ▸ hph] at hd
      cases hd
    simp [drawsTo, hk]

/-- The bytes from `cnt` up to `len` are those of these draws: byte `idx` is byte `t mod 8` of draw `t / 8`, with
`t = len - 1 - idx` (44_bytes_and_state_access.md R142). -/
def FilledFrom (cnt len : Nat) (draws : List Word) (m : Memory) : Prop :=
  ∀ idx, cnt ≤ idx → idx < len → ∃ r, draws[(len - 1 - idx) / 8]? = some r ∧
    m.read idx = some (byteOf r ((len - 1 - idx) % 8))

theorem FilledFrom.of_read_eq {cnt len : Nat} {draws : List Word} {m m' : Memory} (h : FilledFrom cnt len draws m)
    (hm : ∀ idx, cnt ≤ idx → idx < len → m'.read idx = m.read idx) : FilledFrom cnt len draws m' := by
  intro idx hcnt hlen
  rw [hm idx hcnt hlen]
  exact h idx hcnt hlen

/-- One more draw fills the bytes just below. -/
theorem FilledFrom.byteWrites {cnt len : Nat} {draws : List Word} {m : Memory} (h : FilledFrom cnt len draws m)
    (hcnt : cnt + 8 * draws.length = len) (r : Word) :
    FilledFrom (cnt - drawBytes cnt) len (draws ++ [r]) (m.writeAll (byteWrites cnt r)) := by
  intro idx hlow hlen
  by_cases hidx : cnt ≤ idx
  · obtain ⟨r', hr', hread⟩ := h idx hidx hlen
    refine ⟨r', List.getElem?_append_left (List.getElem?_eq_some_iff.mp hr').1 ▸ hr', ?_⟩
    rw [Memory.read_byteWrites_other m r (.inr hidx), hread]
  · have hj : cnt - 1 - idx < drawBytes cnt := by unfold drawBytes at *; omega
    have hj8 : drawBytes cnt ≤ 8 := Nat.min_le_right _ _
    have hdiv : (len - 1 - idx) / 8 = draws.length := by omega
    have hmod : (len - 1 - idx) % 8 = cnt - 1 - idx := by omega
    have hread := Memory.read_byteWrites m r hj
    rw [show cnt - 1 - (cnt - 1 - idx) = idx by omega] at hread
    exact ⟨r, by simp [hdiv], by rw [hmod, hread]⟩

@[simp] theorem fillBytes_ctx_op (r : Word) (q : Port) : (fillBytes r q).ctx.op = q.ctx.op := by
  unfold fillBytes
  dsimp only
  split <;> rfl

@[simp] theorem fillBytes_ctx_a (r : Word) (q : Port) : (fillBytes r q).ctx.a = q.ctx.a := by
  unfold fillBytes
  dsimp only
  split <;> rfl

theorem fillBytes_ctx_cnt (r : Word) (q : Port) :
    (fillBytes r q).ctx.cnt.toNat = q.ctx.cnt.toNat - drawBytes q.ctx.cnt.toNat := by
  rw [← toNat_sub_drawBytes]
  unfold fillBytes
  dsimp only
  split <;> rfl

/-- The answer of a `NEXTBYTES` that has filled its buffer. -/
def Context.Filled (c : Context) : Prop := c.ph = .done ∧ c.st = .ok ∧ c.res = 0 ∧ c.cnt = 0

/-- A draw of a `NEXTBYTES` leaves bytes to fill, or answers the command. -/
theorem fillBytes_fetch_or_filled (r : Word) (q : Port) :
    (fillBytes r q).ctx.ph = .fetch ∧ (fillBytes r q).ctx.cnt ≠ 0 ∨ (fillBytes r q).ctx.Filled := by
  unfold fillBytes
  dsimp only
  split
  next h0 => exact .inr ⟨rfl, rfl, rfl, h0⟩
  next h0 => exact .inl ⟨rfl, h0⟩

/-- A port with a `NEXTBYTES` of length `len` that has made these draws, its response not taken. -/
structure Filling (len : Nat) (draws : List Word) (q : Port) : Prop where
  isNextBytes : q.ctx.op = 0x12
  length : (lowHalf q.ctx.a).toNat = len
  count : q.ctx.cnt.toNat = len - 8 * draws.length
  /-- No draw is made once every byte is filled. -/
  noMore : 8 * draws.length < len + 8
  bytes : FilledFrom q.ctx.cnt.toNat len draws q.buf
  phase : (q.ctx.ph = .fetch ∨ q.ctx.ph = .held) ∧ q.ctx.cnt ≠ 0 ∨ q.ctx.Filled

/-- A `NEXTBYTES` that has been admitted and has not drawn yet. -/
theorem Filling.start {q : Port} (hph : q.ctx.ph = .fetch) (hop : q.ctx.op = 0x12)
    (hcnt : q.ctx.cnt = lowHalf q.ctx.a) (hne : q.ctx.cnt ≠ 0) : Filling q.ctx.cnt.toNat [] q where
  isNextBytes := hop
  length := by rw [hcnt]
  count := rfl
  noMore := by simp
  bytes idx hlow hlen := absurd hlen (Nat.not_lt.mpr hlow)
  phase := .inl ⟨.inl hph, hne⟩

section
variable {len : Nat} {draws : List Word} {q : Port} (h : Filling len draws q)
include h

theorem Filling.decode_cmd : decode q.ctx.cmd = .ok (.nextBytes (lowHalf q.ctx.a)) := by
  rw [Context.cmd, decode_packCmd, h.isNextBytes, decodeFields_nextBytes]

/-- The command is answered when every byte is filled, and before that it is drawing. -/
theorem Filling.cnt_eq_zero_iff : q.ctx.cnt = 0 ↔ draws.length = (len + 7) / 8 := by
  have hcount := h.count
  have hmore := h.noMore
  have hzero : q.ctx.cnt = 0 ↔ q.ctx.cnt.toNat = 0 := BitVec.toNat_inj.symm
  rw [hzero, hcount]
  omega

theorem Filling.filled_of_done (hph : q.ctx.ph = .done) : q.ctx.Filled := by
  obtain ⟨hfetch | hheld, -⟩ | hfilled := h.phase
  · simp [hph] at hfetch
  · simp [hph] at hheld
  · exact hfilled

theorem Filling.filled_of_length (hlen : draws.length = (len + 7) / 8) : q.ctx.Filled :=
  h.phase.resolve_left fun ⟨_, hne⟩ => hne (h.cnt_eq_zero_iff.mpr hlen)

theorem Filling.drawing_of_length_ne (hlen : draws.length ≠ (len + 7) / 8) :
    q.ctx.ph = .fetch ∨ q.ctx.ph = .held :=
  (h.phase.resolve_right fun ⟨_, _, _, hcnt⟩ => hlen (h.cnt_eq_zero_iff.mp hcnt)).1

theorem Filling.cnt_ne_zero (hph : q.ctx.ph = .fetch ∨ q.ctx.ph = .held) : q.ctx.cnt ≠ 0 := by
  obtain ⟨-, hne⟩ | ⟨hdone, -⟩ := h.phase
  · exact hne
  · rcases hph with hph | hph <;> simp [hph] at hdone

/-- SNAPSHOT takes the snapshot only. -/
theorem Filling.holdSnapshot (hph : q.ctx.ph = .fetch) (g : Snapshot) : Filling len draws (q.holdSnapshot g) :=
  ⟨h.isNextBytes, h.length, h.count, h.noMore, h.bytes, .inl ⟨.inr rfl, h.cnt_ne_zero (.inl hph)⟩⟩

/-- A failed COMMIT changes the phase only. -/
theorem Filling.retry (hph : q.ctx.ph = .held) : Filling len draws (q.setPhase .fetch) :=
  ⟨h.isNextBytes, h.length, h.count, h.noMore, h.bytes, .inl ⟨.inl rfl, h.cnt_ne_zero (.inr hph)⟩⟩

/-- A successful COMMIT is one more draw. -/
theorem Filling.commit (hph : q.ctx.ph = .held) (r : Word) :
    Filling len (draws ++ [r]) (fillBytes r q) := by
  have hpos : q.ctx.cnt.toNat ≠ 0 := fun h0 => h.cnt_ne_zero (.inr hph) (BitVec.eq_of_toNat_eq h0)
  have hcount := h.count
  refine ⟨?_, ?_, ?_, ?_, ?_, ?_⟩
  · rw [fillBytes_ctx_op, h.isNextBytes]
  · rw [fillBytes_ctx_a, h.length]
  · rw [fillBytes_ctx_cnt, drawBytes, List.length_append, List.length_singleton]
    omega
  · rw [List.length_append, List.length_singleton]
    omega
  · rw [fillBytes_ctx_cnt, fillBytes_buf]
    exact h.bytes.byteWrites (by omega) r
  · exact (fillBytes_fetch_or_filled r q).imp_left fun ⟨hfetch, hne⟩ => ⟨.inl hfetch, hne⟩

/-- A store of the requester does not outlive a byte that the command has filled (70_reset_and_hazards.md R189;
log 12). -/
theorem Filling.store (i : BitVec 32) (v : Byte) : Filling len draws (q.store i v) := by
  have hctx := Port.store_ctx i v q
  refine ⟨?_, ?_, ?_, h.noMore, ?_, ?_⟩ <;> rw [hctx]
  · exact h.isNextBytes
  · exact h.length
  · exact h.count
  · refine h.bytes.of_read_eq fun idx hlow hlen => ?_
    have hph : q.ctx.ph = .fetch ∨ q.ctx.ph = .held ∨ q.ctx.ph = .done ∧ q.ctx.st = .ok := by
      obtain ⟨hfetch | hheld, -⟩ | ⟨hdone, hok, -⟩ := h.phase
      · exact .inl hfetch
      · exact .inr (.inl hheld)
      · exact .inr (.inr ⟨hdone, hok⟩)
    have hwritten := (q.ctx.written_iff idx).mpr ⟨h.isNextBytes, hlow, h.length ▸ hlen, hph⟩
    rw [Port.store_read, if_neg (by simp [hwritten])]
  · exact h.phase

theorem Filling.present (c : CmdWord) : Filling len draws (q.present c) :=
  ⟨h.isNextBytes, h.length, h.count, h.noMore, h.bytes, h.phase⟩

end

end Sys2Proof.Machine
end

section
/-! SUPPORT. What a turn does to one port, and so to the responses its requester has taken and to a `NEXTBYTES` that
it has in flight. -/

namespace Sys2Proof.Machine

/-- What a turn can do to port `p`. -/
inductive PortTurn (s : State) (p : Nat) (q : Port) : Turn → Port → Prop
  | requester {w' : Option Snapshot} {q' : Port} : RequesterStep s.ent s.words q w' q' →
      PortTurn s p q (.requester p) q'
  | sequencer {w' : Option Snapshot} {q' : Port} : SequencerStep s.words q w' q' →
      PortTurn s p q (.sequencer p) q'
  | store {i : BitVec 32} {v : Byte} : PortTurn s p q (.store p i v) (q.store i v)
  | present {c : CmdWord} : PortTurn s p q (.present p c) (q.present c)
  | reset : PortTurn s p q .reset (q.putCtx Context.idle)
  | stays {t : Turn} : (t = .sequencer p → q.ctx.ph = .idle ∨ q.ctx.ph = .done) → PortTurn s p q t q

theorem takeTurn_port {t : Turn} {p : Nat} {s s' : State} {q : Port} (h : takeTurn t s = .next s')
    (hq : s.ports[p]? = some q) : ∃ q', s'.ports[p]? = some q' ∧ PortTurn s p q t q' := by
  cases takeTurn_effect h with
  | @requester k _ _ _ hk hstep =>
    by_cases hkp : p = k
    · subst hkp
      obtain rfl := Option.some.inj (hq.symm.trans hk)
      exact ⟨_, State.afterStep_port_same hq _ _, .requester hstep⟩
    · exact ⟨q, (State.afterStep_port_other _ _ hkp).trans hq, .stays Turn.noConfusion⟩
  | @sequencer k _ _ _ hk hstep =>
    by_cases hkp : p = k
    · subst hkp
      obtain rfl := Option.some.inj (hq.symm.trans hk)
      exact ⟨_, State.afterStep_port_same hq _ _, .sequencer hstep⟩
    · exact ⟨q, (State.afterStep_port_other _ _ hkp).trans hq,
        .stays fun ht => absurd (Turn.sequencer.inj ht).symm hkp⟩
  | sequencerPasses hpass => exact ⟨q, hq, .stays fun ht => hpass q (Turn.sequencer.inj ht ▸ hq)⟩
  | requesterPasses | drive => exact ⟨q, hq, .stays Turn.noConfusion⟩
  | reset => exact ⟨_, by simp [hq], .reset⟩
  | @store k =>
    by_cases hkp : p = k
    · subst hkp
      exact ⟨_, State.atPort_port_same hq _, .store⟩
    · exact ⟨q, (State.atPort_other _ _ hkp).trans hq, .stays Turn.noConfusion⟩
  | @present k =>
    by_cases hkp : p = k
    · subst hkp
      exact ⟨_, State.atPort_port_same hq _, .present⟩
    · exact ⟨q, (State.atPort_other _ _ hkp).trans hq, .stays Turn.noConfusion⟩

/-- The start of a draw leaves the word latched, the words presented and the responses taken. -/
theorem startDraw_keeps (i : Instr) (q : Port) :
    (startDraw i q).ctx.cmd = q.ctx.cmd ∧ (startDraw i q).pending = q.pending ∧
      (startDraw i q).received = q.received := by
  cases i
  case nextBytes len =>
    rw [startDraw_nextBytes, startBytes]
    split <;> exact ⟨rfl, rfl, rfl⟩
  all_goals exact ⟨rfl, rfl, rfl⟩

/-- So does the whole of ACCEPT after the latch. -/
theorem AcceptStep.keeps {ent : Word} {c : CmdWord} {w w' : Option Snapshot} {q q' : Port}
    (h : AcceptStep ent c w q w' q') :
    q'.ctx.cmd = q.ctx.cmd ∧ q'.pending = q.pending ∧ q'.received = q.received := by
  cases h with
  | refuse | seed | read => exact ⟨rfl, rfl, rfl⟩
  | draw => exact startDraw_keeps _ _

/-- ACCEPT of any word leaves the port with a command in flight or a response. -/
theorem AcceptStep.ph_ne_idle {ent : Word} {c : CmdWord} {w w' : Option Snapshot} {q q' : Port}
    (h : AcceptStep ent c w q w' q') : q'.ctx.ph ≠ .idle := by
  cases h with
  | refuse | seed | read => exact Phase.noConfusion
  | @draw i _ =>
    obtain hph | ⟨hph, -⟩ := startDraw_fetches_or_answers i q <;> simp [hph]

theorem finishDraw_received (i : Instr) (r : Word) (q : Port) : (finishDraw i r q).received = q.received := by
  unfold finishDraw fillBytes
  split
  · rfl
  · dsimp only
    split <;> rfl

theorem SequencerStep.received {w w' : Option Snapshot} {q q' : Port} (h : SequencerStep w q w' q') :
    q'.received = q.received := by
  cases h with
  | snapshot | retry | read => rfl
  | commit => exact finishDraw_received _ _ _

/-- No response that a requester has taken is lost: a turn adds one or none. -/
theorem PortTurn.received_prefix {s : State} {p : Nat} {q q' : Port} {t : Turn} (h : PortTurn s p q t q') :
    q.received <+: q'.received := by
  cases h with
  | requester hstep =>
    cases hstep with
    | accept _ _ ha =>
      obtain ⟨-, -, hrec⟩ := ha.keeps
      exact hrec ▸ List.prefix_rfl
    | respond => exact List.prefix_append _ _
  | sequencer hstep => exact hstep.received ▸ List.prefix_rfl
  | store => exact Port.store_received _ _ q ▸ List.prefix_rfl
  | present | reset | stays => exact List.prefix_rfl

theorem run_received_prefix {ts : List Turn} {p : Nat} {s s' : State} {q q' : Port} (h : run ts s = .next s')
    (hq : s.ports[p]? = some q) (hq' : s'.ports[p]? = some q') : q.received <+: q'.received := by
  induction ts generalizing s q with
  | nil =>
    cases h
    obtain rfl := Option.some.inj (hq.symm.trans hq')
    exact List.prefix_rfl
  | cons t ts ih =>
    obtain ⟨u, hturn, hrun⟩ := run_cons_eq_next.mp h
    obtain ⟨r, hr, hstep⟩ := takeTurn_port hturn hq
    exact hstep.received_prefix.trans (ih hrun hr)

/-- A step of its sequencer adds to a `NEXTBYTES` the draw that it makes. -/
theorem SequencerStep.filling {s : State} {p len : Nat} {draws : List Word} {q q' : Port} {w' : Option Snapshot}
    (hstep : SequencerStep s.words q w' q') (hq : s.ports[p]? = some q) (h : Filling len draws q) :
    Filling len (draws ++ drawsTo p (drawOfTurn (.sequencer p) s).toList) q' := by
  cases hstep with
  | snapshot hph _ _ hw => simpa [drawOfTurn, hq, hw, hph] using h.holdSnapshot hph _
  | retry hph _ _ hw hne => simpa [drawOfTurn, hq, hw, hne] using h.retry hph
  | commit hph hd _ hw =>
    obtain rfl := Except.ok.inj (hd.symm.trans h.decode_cmd)
    rw [drawOfTurn_of_fresh hq hph rfl hw, Option.toList_some, drawsTo_singleton_self, finishDraw_nextBytes]
    exact h.commit hph _
  | read _ hd hc =>
    obtain rfl := Except.ok.inj (hd.symm.trans h.decode_cmd)
    cases hc

/-- A turn by which the requester takes no response adds to a `NEXTBYTES` the draw that it makes for the port. -/
theorem PortTurn.filling {s : State} {p len : Nat} {draws : List Word} {q q' : Port} {t : Turn}
    (hturn : PortTurn s p q t q') (hq : s.ports[p]? = some q) (h : Filling len draws q) (ht : t ≠ .reset)
    (hrec : q'.received = q.received) :
    Filling len (draws ++ drawsTo p (drawOfTurn t s).toList) q' := by
  cases hturn with
  | requester hstep =>
    cases hstep with
    | accept hph =>
      obtain ⟨hph' | hph', -⟩ | ⟨hph', -⟩ := h.phase <;> simp [hph] at hph'
    | respond => simp at hrec
  | sequencer hstep => exact hstep.filling hq h
  | store => simpa [drawOfTurn] using h.store _ _
  | present => simpa [drawOfTurn] using h.present _
  | reset => exact absurd rfl ht
  | stays hpass => simpa [drawsTo_drawOfTurn_eq_nil hq hpass] using h

/-- A run without RESET, in which the requester takes no response, adds to a `NEXTBYTES` the draws that it makes for
the port. -/
theorem Filling.after_run {ts : List Turn} {p len : Nat} {draws : List Word} {s s' : State} {q q' : Port}
    (h : Filling len draws q) (hq : s.ports[p]? = some q) (hts : Turn.reset ∉ ts) (hrun : run ts s = .next s')
    (hq' : s'.ports[p]? = some q') (hrec : q'.received = q.received) :
    Filling len (draws ++ drawsTo p (drawsOf ts s)) q' := by
  induction ts generalizing s q draws with
  | nil =>
    cases hrun
    obtain rfl := Option.some.inj (hq.symm.trans hq')
    simpa [drawsOf] using h
  | cons t ts ih =>
    obtain ⟨u, hturn, hrest⟩ := run_cons_eq_next.mp hrun
    obtain ⟨r, hr, hstep⟩ := takeTurn_port hturn hq
    have hle := hrec ▸ run_received_prefix hrest hr hq'
    have hrec' : r.received = q.received := hle.eq_of_length_le hstep.received_prefix.length_le
    rw [drawsOf_cons hturn, drawsTo_append, ← List.append_assoc]
    exact ih (hstep.filling hq h (List.ne_of_not_mem_cons hts).symm hrec') hr (List.not_mem_of_not_mem_cons hts)
      hrest (hrec.trans hrec'.symm)

end Sys2Proof.Machine
end

section
/-! SUPPORT. A `NEXTBYTES` whose port is the only one that steps (44_bytes_and_state_access.md R142). -/

namespace Sys2Proof.Machine

theorem length_rawSequence (n : Nat) (g : Snapshot) : (rawSequence n g).length = n := by
  simp [rawSequence]

/-- SNAPSHOT immediately followed by COMMIT makes one draw of a `NEXTBYTES`. -/
theorem Filling.run_snapshot_commit {p len : Nat} {draws : List Word} {s : State} {q : Port} {g : Snapshot}
    (h : Filling len draws q) (hq : s.ports[p]? = some q) (hw : s.words = some g) (hph : q.ctx.ph = .fetch) :
    run [.sequencer p, .sequencer p] s =
      .next (s.afterStep p (some (next g)) (fillBytes (raw g) (q.holdSnapshot g))) := by
  have hsnapshot : SequencerStep s.words q s.words (q.holdSnapshot g) := .snapshot hph h.decode_cmd rfl hw
  have hcommit : SequencerStep (s.afterStep p s.words (q.holdSnapshot g)).words (q.holdSnapshot g) (some (next g))
      (finishDraw (.nextBytes (lowHalf q.ctx.a)) (raw g) (q.holdSnapshot g)) := .commit rfl h.decode_cmd rfl hw
  have hturn := hcommit.takeTurn_eq (State.afterStep_port_same hq _ _)
  rw [State.afterStep_afterStep] at hturn
  exact run_cons_eq_next.mpr ⟨_, hsnapshot.takeTurn_eq hq, run_cons_eq_next.mpr ⟨_, hturn, rfl⟩⟩

/-- Two turns of its sequencer for each draw left end a `NEXTBYTES`, at the position of the sequence behind its
draws, and write no byte at its length or above. -/
theorem Filling.run_alone {p len n : Nat} {draws : List Word} {s : State} {q : Port} {g : Snapshot}
    (h : Filling len draws q) (hq : s.ports[p]? = some q) (hw : s.words = some g) (hheld : q.ctx.ph ≠ .held)
    (hn : draws.length + n = (len + 7) / 8) :
    ∃ s' q', run (List.replicate (2 * n) (.sequencer p)) s = .next s' ∧ s'.ports[p]? = some q' ∧
      s'.words = some (nextN n g) ∧ Filling len (draws ++ rawSequence n g) q' ∧
      ∀ idx, len ≤ idx → q'.buf.read idx = q.buf.read idx := by
  induction n generalizing s q g draws with
  | zero => exact ⟨s, q, rfl, hq, hw, by simpa [rawSequence] using h, fun _ _ => rfl⟩
  | succ n ih =>
    have hph := (h.drawing_of_length_ne (by omega)).resolve_right hheld
    have hfilling := (h.holdSnapshot hph g).commit rfl (raw g)
    have hheld' : (fillBytes (raw g) (q.holdSnapshot g)).ctx.ph ≠ .held := by
      obtain ⟨hph', -⟩ | ⟨hph', -⟩ := fillBytes_fetch_or_filled (raw g) (q.holdSnapshot g) <;> simp [hph']
    obtain ⟨s', q', hrun, hq', hw', hfilling', habove⟩ :=
      ih (s := s.afterStep p (some (next g)) _) hfilling (State.afterStep_port_same hq _ _) rfl hheld'
        (by rw [List.length_append, List.length_singleton]; omega)
    refine ⟨s', q', run_append_eq_next.mpr ⟨_, h.run_snapshot_commit hq hw hph, hrun⟩, hq', hw', ?_,
      fun idx hidx => ?_⟩
    · rwa [rawSequence_succ, List.append_cons]
    · have hcnt : q.ctx.cnt.toNat ≤ idx := by
        have := h.count
        omega
      rw [habove idx hidx, fillBytes_buf]
      exact Memory.read_byteWrites_other q.buf _ (.inr hcnt)

/-- The bytes of a buffer that the draws of the sequence from `g` have filled. -/
theorem FilledFrom.read_rawSequence {n len : Nat} {g : Snapshot} {m : Memory}
    (h : FilledFrom 0 len (rawSequence n g) m) {idx : Nat} (hidx : idx < len) :
    m.read idx = some (byteOf (raw (nextN ((len - 1 - idx) / 8) g)) ((len - 1 - idx) % 8)) := by
  obtain ⟨r, hr, hread⟩ := h idx (Nat.zero_le _) hidx
  obtain ⟨hlt, rfl⟩ := List.getElem?_eq_some_iff.mp hr
  simpa [rawSequence] using hread

theorem Filling.bytes_of_filled {len : Nat} {draws : List Word} {q : Port} (h : Filling len draws q)
    (hq : q.ctx.Filled) : FilledFrom 0 len draws q.buf := by
  obtain ⟨-, -, -, hcnt⟩ := hq
  simpa [hcnt] using h.bytes

end Sys2Proof.Machine
end

section
/-! SUPPORT. The statements about reset and hazards (70_reset_and_hazards.md), settled. -/

open Sys2Proof Sys2Proof.Machine

/-- Settles O56: every turn that takes no response of the port adds to its `NEXTBYTES` the draw it makes, with the
bytes of that draw; alone, each SNAPSHOT and COMMIT make one draw. -/
theorem nextBytesFillsTheBuffer : Obligations.NextBytesFillsTheBuffer := by
  refine ⟨fun s p q g hq hw hph hop hcnt hne => ?_, ?_⟩
  · have hstart := Filling.start hph hop (hcnt.trans (lowHalf_eq_setWidth _).symm) hne
    obtain ⟨s', q', hrun, hq', hw', hfilling, habove⟩ := hstart.run_alone hq hw (by simp [hph]) (Nat.zero_add _)
    rw [List.nil_append] at hfilling
    have hfilled := hfilling.filled_of_length (length_rawSequence _ g)
    have hbytes := hfilling.bytes_of_filled hfilled
    obtain ⟨hdone, hok, hres, -⟩ := hfilled
    exact ⟨s', q', hrun, hq', hdone, hok, hres, hw', fun idx hidx => hbytes.read_rawSequence hidx, habove⟩
  · rintro ts s s' p q q' _ hs hq hph hop hcnt hts hrun hq' hrec hdone rfl
    have hpos := ((hs.of_port hq).filling (.inl hph) hop).1
    have hstart := Filling.start hph hop (hcnt.trans (lowHalf_eq_setWidth _).symm) fun h0 => by simp [h0] at hpos
    have hfilling := hstart.after_run hq hts hrun hq' hrec
    have hfilled := hfilling.filled_of_done hdone
    have hbytes := hfilling.bytes_of_filled hfilled
    obtain ⟨-, hok, hres, hcnt0⟩ := hfilled
    have hrespond := RequesterStep.takeTurn_eq (s := s') (.respond hdone) hq'
    refine ⟨hfilling.cnt_eq_zero_iff.mp hcnt0, _, _, hrespond, State.afterStep_port_same hq' _ _, ?_,
      fun idx hidx => hbytes idx (Nat.zero_le _) hidx⟩
    rw [Port.handOver_received, hrec, hok, hres]

/-- Settles O11: the rest of ACCEPT keeps the word that the port has latched, and leaves no port idle. -/
theorem acceptLatchesTheWholeWord : Obligations.AcceptLatchesTheWholeWord := by
  refine ⟨fun s s' p q c cs hq hph hpend h => ?_, fun s p q c hq => ?_⟩
  · obtain ⟨w', q', ha⟩ := exists_acceptStep s.ent c s.words (q.take c cs)
    obtain ⟨hq', -⟩ := ha.outcome hq hph hpend h
    obtain ⟨hcmd, hpend', -⟩ := ha.keeps
    exact ⟨q', hq', hcmd.trans (packCmd_fields c), hpend', ha.ph_ne_idle⟩
  · exact congrArg Host.Outcome.next (State.atPort_of_port hq (Port.present c))

/-- Settles O46: RESET writes the words and the contexts, and nothing else. -/
theorem resetDropsEverythingButTheBuffers : Obligations.ResetDropsEverythingButTheBuffers := by
  intro s
  refine ⟨resetBlock s, rfl, rfl, rfl, rfl, by simp, fun p q hq => ?_⟩
  exact ⟨q.putCtx Context.idle, by simp [hq], rfl, rfl, rfl, rfl⟩
end
